-- ==== Sys2Proof/Word.lean ====
section
/-! DEFINITION. The widths of values: bytes, the 64-bit carrier of data and register values, and the four access
widths (spec/00_scope.md R5, R10; spec/20_memory.md R65). -/

namespace Sys2Proof

/-- A byte is 8 bits (R10). -/
abbrev Byte := BitVec 8

/-- The carrier of every data value and register value: at most 64 bits wide, unsigned (R10, R90). A value of a
narrower width `w` is held with zeros above bit `w − 1`. -/
abbrev Word := BitVec 64

/-- The access and register widths the block knows: 8, 16, 32 and 64 bits (R5, R65). -/
inductive Width where
  | w8
  | w16
  | w32
  | w64
deriving DecidableEq, Repr, Inhabited

/-- The number of bytes of a width, `n = w / 8` (R10). -/
def Width.bytes : Width → Nat
  | .w8 => 1
  | .w16 => 2
  | .w32 => 4
  | .w64 => 8

/-- The number of bits of a width (R10). -/
def Width.bits : Width → Nat
  | .w8 => 8
  | .w16 => 16
  | .w32 => 32
  | .w64 => 64

end Sys2Proof
end

