-- ==== Sys2Proof/Syntax.lean ====
section
/-! DEFINITION. The operands and the instructions: one constructor of `Instr` for each of the 57 rows of
spec/opcode_table.json, and the command tuple of spec/30_encoding.md R90 that carries the block's own operations. -/

namespace Sys2Proof

/-! ## Operand types -/

/-- The two address spaces (R22, R23): the memory Router `MEM` and the I/O Router `IO`. -/
inductive Space where
  | mem
  | io
deriving DecidableEq, Repr, Inhabited

/-- The kind of a Device (R6): RAM, ROM or IOPort. -/
inductive DeviceKind where
  | ram
  | rom
  | ioPort
deriving DecidableEq, Repr, Inhabited

/-- The write policy of a Device (R6). -/
inductive Policy where
  | readWrite
  | readOnly
deriving DecidableEq, Repr, Inhabited

/-- The Device-local byte order of a multi-byte access (R60). -/
inductive ByteOrder where
  | little
  | big
deriving DecidableEq, Repr, Inhabited

/-- The name of a register (R24, R190). The names of the two instances the spec gives (`A`, `PC` of `RF_ILL2`; `W`,
`WH`, `WL` of `RF_PAIR`; R199) are constructors; any other name a target uses is `other n`. -/
inductive RegName where
  | a
  | pc
  | w
  | wh
  | wl
  | other (n : Nat)
deriving DecidableEq, Repr, Inhabited

/-- Which half of its parent a half register views (R190). -/
inductive Part where
  | hi
  | lo
deriving DecidableEq, Repr, Inhabited

/-- One declaration of a register-file schema (R190). A storage register carries its value after `RESET`: the
target's `RESET_STATE`, and for the program counter its `RESET_VECTOR` (R7 (b)). -/
inductive RegDecl where
  | storage (name : RegName) (width : Width) (reset : Word)
  | half (name parent : RegName) (part : Part)
deriving DecidableEq, Repr, Inhabited

/-- The register-file schema `RegSpec` (R190): the declarations, and which register is the program counter. -/
structure RegSpec where
  decls : List RegDecl
  pcName : RegName
deriving DecidableEq, Repr, Inhabited

/-- Which target instruction set the Processor runs (R7): the one instance the spec defines, `ILL2` (R222), or an
external collaborator, whose functions are the constants of Config.lean. -/
inductive TargetId where
  | ill2
  | external (n : Nat)
deriving DecidableEq, Repr, Inhabited

/-- The plain data of a target as `BUILD` receives it (R7, R250). `ILL2` fixes its register file, `RF_ILL2`, and leaves
the reset vector a parameter (R222); an external target brings its own schema. -/
inductive TargetArg where
  | ill2 (resetVector : BitVec 16)
  | external (n : Nat) (spec : RegSpec)
deriving DecidableEq, Repr, Inhabited

/-- `init(d)`, the bytes a Device holds when it is created (R6, R324): `bytes` from offset 0 and `fill` at every
later offset. Any contents of a finite array can be written so. -/
structure InitBytes where
  fill : Byte
  bytes : List Byte
deriving DecidableEq, Repr, Inhabited

/-- A Device that is created but placed in no Router (notes/assumptions/9.md). -/
structure DeviceSpec where
  kind : DeviceKind
  size : Nat
  order : ByteOrder
  init : InitBytes
deriving DecidableEq, Repr, Inhabited

/-- One element of the device layout (R8 (a), R250). -/
structure ConfigEntry where
  kind : DeviceKind
  base : Nat
  size : Nat
  order : ByteOrder
  init : InitBytes
  initialContents : Option (List Byte)
deriving DecidableEq, Repr, Inhabited

/-- The tick function of a Peripheral (R8 (c), R260): the counting fixture of vector D-E10, one whose behaviour the
spec leaves open, or one that breaks R335 and does not return. -/
inductive TickFn where
  | increment
  | external (n : Nat)
  | neverReturns
deriving DecidableEq, Repr, Inhabited

/-- A Peripheral as `BUILD` receives it: its tick function and its own initial state (R39). -/
structure PeriphSpec where
  tick : TickFn
  initial : Nat
deriving DecidableEq, Repr, Inhabited

/-- The operand of `BUILD` (R250): the layout, the frequency, the Peripherals and the target; with them the address
widths, which R5 makes parameters, and the Devices created outside the layout (notes/assumptions/9.md). DEDUCED: the
spec gives `FREQ_HZ` no number type, only `FREQ_HZ > 0` (R8 (b)); the model takes a rational number of Hz, whole or not,
because `interval = 1 / FREQ_HZ` is an exact rational (R38, D35; notes/assumptions/19.md). -/
structure BuildArg where
  awMem : Nat
  awIo : Nat
  config : List ConfigEntry
  freqHz : Rat
  peripherals : List PeriphSpec
  target : TargetArg
  spares : List DeviceSpec
deriving DecidableEq, Repr, Inhabited

/-- Text, as a list of characters (R103). -/
abbrev Text := List Char

/-! ## Instructions -/

/-- The instructions, one constructor for each row of spec/opcode_table.json: the 55 operations of the block (R92, R93)
and the two instructions of `ILL2` (R96). Device operands are the Device's number in order of creation. -/
inductive Instr where
  -- Router family, memory space (R154 to R161)
  | fetch8 (addr : Nat)
  | fetch16 (addr : Nat)
  | fetch32 (addr : Nat)
  | fetch64 (addr : Nat)
  | store8 (addr : Nat) (data : BitVec 8)
  | store16 (addr : Nat) (data : BitVec 16)
  | store32 (addr : Nat) (data : BitVec 32)
  | store64 (addr : Nat) (data : BitVec 64)
  -- Router family, I/O space (R162 to R169)
  | in8 (addr : Nat)
  | in16 (addr : Nat)
  | in32 (addr : Nat)
  | in64 (addr : Nat)
  | out8 (addr : Nat) (data : BitVec 8)
  | out16 (addr : Nat) (data : BitVec 16)
  | out32 (addr : Nat) (data : BitVec 32)
  | out64 (addr : Nat) (data : BitVec 64)
  -- Device family, memory naming (R122 to R129)
  | dfetch8 (dev off : Nat)
  | dfetch16 (dev off : Nat)
  | dfetch32 (dev off : Nat)
  | dfetch64 (dev off : Nat)
  | dstore8 (dev off : Nat) (data : BitVec 8)
  | dstore16 (dev off : Nat) (data : BitVec 16)
  | dstore32 (dev off : Nat) (data : BitVec 32)
  | dstore64 (dev off : Nat) (data : BitVec 64)
  -- Device family, I/O naming (R130 to R137)
  | din8 (dev off : Nat)
  | din16 (dev off : Nat)
  | din32 (dev off : Nat)
  | din64 (dev off : Nat)
  | dout8 (dev off : Nat) (data : BitVec 8)
  | dout16 (dev off : Nat) (data : BitVec 16)
  | dout32 (dev off : Nat) (data : BitVec 32)
  | dout64 (dev off : Nat) (data : BitVec 64)
  -- Configuration (R152, R153, R138)
  | regm (dev base size : Nat)
  | regio (dev base size : Nat)
  | dload (dev : Nat) (bytes : List Byte)
  -- Register file family (R194 to R197)
  | rdreg (name : RegName)
  | wrreg (name : RegName) (data : Word)
  | getregs
  | printregs (stream : Nat)
  -- Processor family (R210 to R218)
  | setup (m i : Space)
  | reset
  | fetchi
  | decodei
  | execi
  | setupdebug (callback : Nat)
  | stopdebug
  | asm (text : Text)
  | disasm (bytes : List Byte)
  -- Engine family (R250 to R256)
  | build (arg : BuildArg)
  | start
  | stop
  | initthread
  | exitthread
  | flushthread
  | workerstep
  -- The instructions of ILL2 (R223, R224)
  | ldiA (imm8 : Byte)
  | hlt
deriving DecidableEq, Repr, Inhabited

/-- The Router read of a space and a width (R92). -/
def Instr.routerRead : Space → Width → Nat → Instr
  | .mem, .w8, a => .fetch8 a
  | .mem, .w16, a => .fetch16 a
  | .mem, .w32, a => .fetch32 a
  | .mem, .w64, a => .fetch64 a
  | .io, .w8, a => .in8 a
  | .io, .w16, a => .in16 a
  | .io, .w32, a => .in32 a
  | .io, .w64, a => .in64 a

/-- The Router write of a space and a width; the value is `data[w − 1 : 0]` (R90, R92). -/
def Instr.routerWrite : Space → Width → Nat → Word → Instr
  | .mem, .w8, a, v => .store8 a (v.setWidth 8)
  | .mem, .w16, a, v => .store16 a (v.setWidth 16)
  | .mem, .w32, a, v => .store32 a (v.setWidth 32)
  | .mem, .w64, a, v => .store64 a v
  | .io, .w8, a, v => .out8 a (v.setWidth 8)
  | .io, .w16, a, v => .out16 a (v.setWidth 16)
  | .io, .w32, a, v => .out32 a (v.setWidth 32)
  | .io, .w64, a, v => .out64 a v

/-- The Device read of a naming (`mem`: Fetch, `io`: In) and a width (R92). -/
def Instr.deviceRead : Space → Width → Nat → Nat → Instr
  | .mem, .w8, d, o => .dfetch8 d o
  | .mem, .w16, d, o => .dfetch16 d o
  | .mem, .w32, d, o => .dfetch32 d o
  | .mem, .w64, d, o => .dfetch64 d o
  | .io, .w8, d, o => .din8 d o
  | .io, .w16, d, o => .din16 d o
  | .io, .w32, d, o => .din32 d o
  | .io, .w64, d, o => .din64 d o

/-- The Device write of a naming (`mem`: Store, `io`: Out) and a width; the value is `data[w − 1 : 0]` (R90, R92). -/
def Instr.deviceWrite : Space → Width → Nat → Nat → Word → Instr
  | .mem, .w8, d, o, v => .dstore8 d o (v.setWidth 8)
  | .mem, .w16, d, o, v => .dstore16 d o (v.setWidth 16)
  | .mem, .w32, d, o, v => .dstore32 d o (v.setWidth 32)
  | .mem, .w64, d, o, v => .dstore64 d o v
  | .io, .w8, d, o, v => .dout8 d o (v.setWidth 8)
  | .io, .w16, d, o, v => .dout16 d o (v.setWidth 16)
  | .io, .w32, d, o, v => .dout32 d o (v.setWidth 32)
  | .io, .w64, d, o, v => .dout64 d o v

/-! ## The command tuple -/

/-- The operand `arg` of a command: whatever else an operation takes (R90). -/
inductive Arg where
  | none
  | size (n : Nat)
  | bytes (l : List Byte)
  | reg (r : RegName)
  | stream (n : Nat)
  | spaces (m i : Space)
  | callback (n : Nat)
  | text (t : Text)
  | config (b : BuildArg)
deriving DecidableEq, Repr, Inhabited

/-- A command `(op, dev, addr, data, arg)` (R90): only `op` has a bit layout, the other fields are typed values. -/
structure Command where
  op : Byte
  dev : Nat
  addr : Nat
  data : Word
  arg : Arg
deriving DecidableEq, Repr, Inhabited

/-- An encoded instruction: a command at the block's port, or the bytes of an instruction of the target's stream. -/
inductive Encoded where
  | port (c : Command)
  | stream (bytes : List Byte)
deriving DecidableEq, Repr, Inhabited

end Sys2Proof
end

