-- ==== Sys2Proof/Config.lean ====
section
/-! DEFINITION. What the spec leaves to a parameter or an external collaborator: the interface through which a target's
`Exec` reaches state, the free values (opaque constants, no body), and the illustrative configuration of
spec/20_memory.md R70. -/

namespace Sys2Proof

/-- The answer of `LenStep` (R7 (c), R98). -/
inductive LenAnswer where
  | done
  | more
  | unknown (b : Byte)
deriving DecidableEq, Repr, Inhabited

/-- The outcome of `Exec` (R7 (e), R222 (c)). -/
inductive ExecOutcome where
  | cont
  | halt
deriving DecidableEq, Repr, Inhabited

/-- The effect of one decoded instruction as the tree of the accesses it makes, one after another: `Exec` reaches
state only through `x[r]`, `x[r] <- v`, `MemRead`, `MemWrite`, `IoRead`, `IoWrite`, and ends in `Continue` or `Halt`
(R222 (c)). An `Exec` that breaks R335 does not terminate: its tree comes to `neverEnds`. -/
inductive ExecTree where
  | ends (o : ExecOutcome)
  | neverEnds
  | readReg (r : RegName) (k : Word → ExecTree)
  | writeReg (r : RegName) (v : Word) (k : ExecTree)
  | read (sp : Space) (addr : Nat) (w : Width) (k : Word → ExecTree)
  | write (sp : Space) (addr : Nat) (w : Width) (v : Word) (k : ExecTree)
deriving Inhabited

/-- What an assembler answers for a text (R217): bytes, `UnknownOpcode(text)` or `InvalidOperand(expected, actual)`. -/
inductive AsmAnswer where
  | bytes (l : List Byte)
  | unknownOpcode (text : Text)
  | invalidOperand (expected actual : Text)
deriving DecidableEq, Repr, Inhabited

/-- What a disassembler answers for a byte list (R218): a text, `UnknownInstruction(byte)`, or no answer, because the
list is not exactly one instruction. -/
inductive DisasmAnswer where
  | text (t : Text)
  | unknownInstruction (b : Byte)
  | notOneInstruction
deriving DecidableEq, Repr, Inhabited

/-! ## The external collaborators: constants without a value

Each is the OPEN parameter its docstring names (notes/assumptions/2.md to 5.md): a claim holds whatever it is. -/

/-- `MAXLEN` of external target `n` (R7 (c)). -/
opaque Config.externalMaxLen : Nat → Nat

/-- `LenStep` of external target `n` (R7 (c)). -/
opaque Config.externalLenStep : Nat → List Byte → LenAnswer

/-- `Decode` of external target `n` (R7 (d)): the decoded instruction as a number of the target's own. -/
opaque Config.externalDecode : Nat → List Byte → Nat

/-- `Exec` of external target `n` on a decoded instruction (R7 (e)). -/
opaque Config.externalExec : Nat → Nat → ExecTree

/-- `Asm` of external target `n` (R7 (f)). -/
opaque Config.externalAsm : Nat → Text → AsmAnswer

/-- `Disasm` of external target `n` (R7 (f)). -/
opaque Config.externalDisasm : Nat → List Byte → DisasmAnswer

/-- The tick function of an external Peripheral, on its own state (R8 (c), R260). -/
opaque Config.externalTick : Nat → Nat → Nat

/-- The answer of callback `cb`, asked for the `k`-th time, on the instruction index and the register view it is given
(R8 (e), R221): `true` to continue. A free value. -/
opaque Config.callbackContinues :
  (cb : Nat) → (index : BitVec 64) → (view : List (RegName × Word)) → (k : Nat) → Bool

/-- The text `PRINTREGS` writes for a register view (R197): a free value. -/
opaque Config.registerText : List (RegName × Word) → Text

/-! ## Register-file instances and the illustrative configuration -/

/-- `RF_ILL2` (R26, R199) with `RESET_STATE[A] = 0x00` (R222, R323) and the given `RESET_VECTOR`. -/
def Config.rfIll2 (resetVector : BitVec 16) : RegSpec where
  decls := [.storage .a .w8 0, .storage .pc .w16 (resetVector.setWidth 64)]
  pcName := .pc

/-- The test fixture `RF_PAIR` (R27, R199). The spec gives no `RESET_STATE` for it: zero, notes/assumptions/1.md. -/
def Config.rfPair : RegSpec where
  decls := [.storage .w .w16 0, .half .wh .w .hi, .half .wl .w .lo, .storage .pc .w16 0]
  pcName := .pc

/-- The schema of a target (R7 (a), R222). -/
def Config.regSpecOf : TargetArg → RegSpec
  | .ill2 v => Config.rfIll2 v
  | .external _ spec => spec

/-- The name of a target. -/
def Config.targetIdOf : TargetArg → TargetId
  | .ill2 _ => .ill2
  | .external n _ => .external n

/-- The reset vector of `CFG_ILL` (R70, R323). -/
def Config.resetVectorIll : BitVec 16 := 0x1000#16

/-- `init(d)` of the Devices of `CFG_ILL`: zero bytes, the premise of the spec's test vectors
(spec/95_test_vectors.md); notes/assumptions/1.md. -/
def Config.zeroInit : InitBytes where
  fill := 0
  bytes := []

/-- The illustrative configuration `CFG_ILL` (R70): a RAM at `0x0000`, a ROM at `0x1000` preloaded with `3E 05 76`, no
I/O entry, no Peripheral, target `ILL2`. The frequency is not given: 1 Hz, notes/assumptions/1.md. -/
def Config.cfgIll : BuildArg where
  awMem := 16
  awIo := 16
  config :=
    [{ kind := .ram, base := 0x0000, size := 0x1000, order := .little, init := Config.zeroInit,
       initialContents := none },
     { kind := .rom, base := 0x1000, size := 0x100, order := .little, init := Config.zeroInit,
       initialContents := some [0x3E, 0x05, 0x76] }]
  freqHz := 1
  peripherals := []
  target := .ill2 Config.resetVectorIll
  spares := []

end Sys2Proof
end

