-- ==== Sys2Proof/Machine/State.lean ====
section
/-! DEFINITION. The state of the block as plain data (spec/10_state.md), the reasons a step can stop, and the state after
reset. INVENTORY.md's State section names the rule and the reset value of every field. -/

namespace Sys2Proof.Machine

/-! ## Devices and Routers -/

/-- The `storage` of a Device (R20): the bytes that differ from `fill`, with their offsets; an unlisted offset reads
as `fill`, the Device's own `init` byte (R6, R324; notes/assumptions/1.md). -/
structure Memory where
  fill : Byte
  cells : List Host.Cell
deriving DecidableEq, Repr, Inhabited

/-- A Device (R20). -/
structure Device where
  kind : DeviceKind
  base : Nat
  size : Nat
  policy : Policy
  order : ByteOrder
  storage : Memory
  loaded : Bool
deriving DecidableEq, Repr, Inhabited

/-- An entry `(Device, base, size)` of a Router (R22); the Device is named by its number in order of creation. -/
structure RouterEntry where
  dev : Nat
  base : Nat
  size : Nat
deriving DecidableEq, Repr, Inhabited

/-! ## Register file -/

/-- A storage register (R24, R190): its width, its value after `RESET`, and its value. -/
structure RegCell where
  name : RegName
  width : Width
  reset : Word
  val : Word
deriving DecidableEq, Repr, Inhabited

/-- A half register (R190): a view, no state of its own (R24). -/
structure HalfReg where
  name : RegName
  parent : RegName
  part : Part
deriving DecidableEq, Repr, Inhabited

/-- The register file (R24): the storage registers with their values, the half views and the name of the program
counter. -/
structure RegFile where
  cells : List RegCell
  halves : List HalfReg
  pcName : RegName
deriving DecidableEq, Repr, Inhabited

/-! ## Conditions and responses -/

/-- The seven conditions with their payloads (R280 to R287). `outOfRange` carries the Device's `size` for
`valid = [0, size)`, and the span of an access of more than one byte. -/
inductive Condition where
  | unmapped (address : Nat) (ranges : List (Nat × Nat))
  | outOfRange (offset size : Nat) (span : Option (Nat × Nat))
  | writeProtected (offset : Nat) (width : Width)
  | unknownInstruction (byte : Byte)
  | unknownOpcode (text : Text)
  | invalidOperand (expected actual : Text)
  | overlappingRegistration (newRange existing : Nat × Nat)
deriving DecidableEq, Repr, Inhabited

/-- The `value` of a response (R90), by the operation that gives it: an access or `RDREG` (a value of a width), `GETREGS`,
`ASM`, `DISASM`, `PRINTREGS` (the stream and the text written to it). -/
inductive RespValue where
  | none
  | data (w : Width) (v : Word)
  | registers (view : List (RegName × Word))
  | bytes (l : List Byte)
  | text (t : Text)
  | printed (stream : Nat) (t : Text)
deriving DecidableEq, Repr, Inhabited

/-- A response `(cond, value, info)` (R90): the condition carries its code and its payload. -/
structure Response where
  cond : Option Condition
  value : RespValue
deriving DecidableEq, Repr, Inhabited

/-! ## Processor and Engine -/

/-- Processor state (R29). -/
inductive PState where
  | reset
  | fetching
  | decoding
  | executing
  | halted
deriving DecidableEq, Repr, Inhabited

/-- Halt cause (R30). -/
inductive HaltCause where
  | none
  | haltInstruction
  | debugRequested
  | fault
deriving DecidableEq, Repr, Inhabited

/-- Engine lifecycle (R34). -/
inductive Lifecycle where
  | idle
  | running
  | stopping
  | stopped
deriving DecidableEq, Repr, Inhabited

/-- A decoded instruction (R41): one of `ILL2` (R222), or an external target's, named by the target and the number its
`Decode` gave. -/
inductive Decoded where
  | ldiA (imm8 : Byte)
  | hlt
  | external (target code : Nat)
deriving DecidableEq, Repr, Inhabited

/-- A Peripheral (R39): its tick function and its opaque state. -/
structure Periph where
  tick : TickFn
  state : Nat
deriving DecidableEq, Repr, Inhabited

/-! ## The agents' inputs -/

/-- The agent that issues a command or takes a step (R15). -/
inductive Agent where
  | controller
  | worker
deriving DecidableEq, Repr, Inhabited

/-- One entry of the schedule: which agent acts next, and with which command (R15, R90). -/
structure PortEntry where
  agent : Agent
  cmd : Command
deriving DecidableEq, Repr, Inhabited

/-- What a debug callback does when it is consulted (R221, R334, R335): it answers, or it breaks the rules it is under. -/
inductive CallbackAnswer where
  | continues
  | stops
  | issuesStart
  | issuesStop
  | neverReturns
deriving DecidableEq, Repr, Inhabited

/-! ## Why a step stops -/

/-- The states of the spec in which no further step is possible (spec/93_implementation_defined.md: `stuck`). -/
inductive Fault where
  /-- Raised by `EXECI` and `WORKERSTEP` when the debug callback issues `STOP`, which blocks for ever (R334). Safe: the
  run of the hardware goes no further either. -/
  | callbackDeadlock
  /-- Raised by `EXECI` and `WORKERSTEP` when the debug callback does not return (R335). Safe: the run of the hardware
  goes no further either. -/
  | callbackNeverReturns
  /-- Raised by the step that ends an iteration when a Peripheral's tick does not return (R335). Safe: the run of the
  hardware goes no further either. -/
  | tickNeverReturns
  /-- Raised by `EXECI` and `WORKERSTEP` when the target's `Exec` does not terminate (R335). Safe: the run of the hardware
  goes no further either. -/
  | execNeverReturns
deriving DecidableEq, Repr, Inhabited

/-- The refusals of R14: the model gives the operation no meaning in the state in which it is issued. One whose docstring
names an entry of notes/assumptions is the model's choice where the spec is silent; every other is a row of section 3 of
spec/93_implementation_defined.md. Each is safe: the model stops where the hardware might go on. -/
inductive Refusal where
  /-- Answered by `exec` for an instruction that has no meaning yet. Safe. -/
  | notModelled (mnemonic : String)
  /-- Answered by `step` for a command code R94 reserves. Safe. -/
  | reservedCommand (op : Byte)
  /-- Answered by `step` for a command whose `arg` is not of the kind R93 gives its code: the model's choice
  (notes/assumptions/20.md). Safe. -/
  | badOperand (op : Byte)
  /-- Answered by `step` when the controller issues one of the worker's own steps (R93, R299). Safe. -/
  | workerOnly
  /-- Answered by `step` when a command of the controller stands in the schedule as a step of the worker: the worker
  never issues it (R299), and that it is refused is the model's choice (notes/assumptions/6.md). Safe. -/
  | neverWorker
  /-- Answered when a step of the worker is to be taken and there is no worker, because `lifecycle` is neither `Running`
  nor `Stopping` (R253, R299): the model's choice (notes/assumptions/6.md). Safe. -/
  | noWorker
  /-- Answered by `step` for a command before the first `BUILD`, which comes first (R299): the model's choice
  (notes/assumptions/10.md). Safe. -/
  | notBuilt
  /-- Answered by the controller's commands while `lifecycle` is `Running` or `Stopping` (R299, R331). Safe. -/
  | workerOwnsBlock
  /-- Answered by `REGM`, `REGIO`, `DLOAD` when `lifecycle` is not `Idle` (R138, R152, R332). Safe. -/
  | notIdle
  /-- Answered by a second `BUILD` (R299). Safe. -/
  | alreadyBuilt
  /-- Answered by `BUILD` with a malformed operand (R250); that a malformed schema is one, and that this check comes first,
  are notes/assumptions/9.md and 18.md. Safe. -/
  | malformedConfig
  /-- Answered by `REGM`, `REGIO` with `size < 1` or `base + size > 2^AW` (R152). Safe. -/
  | malformedRange
  /-- Answered by `REGM`, `REGIO` for a Device that is already in an entry (R152). Safe. -/
  | deviceRegistered
  /-- Answered when a command's `dev` names no Device (R90): the model's choice (notes/assumptions/7.md). Safe. -/
  | noSuchDevice
  /-- Answered when a command's `addr` is no address of its space (R90, R151): the model's choice
  (notes/assumptions/7.md). Safe. -/
  | notAnAddress
  /-- Answered by `DLOAD` of a Device that is no ROM (R138). Safe. -/
  | notRom
  /-- Answered by a second `DLOAD` of one ROM (R138). Safe. -/
  | alreadyLoaded
  /-- Answered by `RDREG`, `WRREG` for a name not in `RegSpec` (R194, R195). Safe. -/
  | noSuchRegister
  /-- Answered by `SETUP` of spaces other than `MEM` and `IO`: in this block it is always these (R210), and that others are
  refused is the model's choice (notes/assumptions/17.md). Safe. -/
  | notTheSpaces
  /-- Answered by `FETCHI` with `setup_done = 0` (R212). Safe. -/
  | noSetup
  /-- Answered by `FETCHI`, `DECODEI`, `EXECI` out of sequence (R212, R213, R214). Safe. -/
  | outOfSequence
  /-- Answered by `DISASM` of a list that is not exactly one instruction (R218). Safe. -/
  | notOneInstruction
  /-- Answered by `EXECI` and `WORKERSTEP` when the debug callback issues `START` (R334). Safe. -/
  | callbackStart
  /-- Answered when an external target breaks what R98 and R222 require of it: `LenStep` answering `More` on `MAXLEN` bytes,
  or `Unknown` of a byte that is not the last one fetched, or `Exec` naming no register, no address, or a value wider than
  its register (R193); the model's choice (notes/assumptions/16.md). Safe. -/
  | targetContract
deriving DecidableEq, Repr, Inhabited

/-! ## The state -/

/-- The state of the block. -/
structure State where
  -- Devices and address spaces (R20 to R23)
  devices : List Device
  memEntries : List RouterEntry
  ioEntries : List RouterEntry
  awMem : Nat
  awIo : Nat
  -- Register file and Processor (R24 to R33, R37, R41)
  target : TargetId
  regs : RegFile
  pstate : PState
  haltCause : HaltCause
  fault : Option Condition
  setupDone : Bool
  memRef : Option Space
  ioRef : Option Space
  instrIndex : BitVec 64
  dbg : Option Nat
  ibuf : List Byte
  decoded : Option Decoded
  -- Engine (R34 to R36, R38, R39)
  lifecycle : Lifecycle
  dying : Bool
  buildFailed : Bool
  interval : Rat
  periph : List Periph
  -- The command port (R90) and the controller inside `STOP` (R252)
  response : Response
  blocked : Bool
  built : Bool
  -- The environment's choices (R15, R221): the model's own fields
  port : List PortEntry
  dbgAnswers : List CallbackAnswer
  dbgCount : Nat
deriving DecidableEq, Repr, Inhabited

/-- The machine right after reset: the state R321 gives after `BUILD`, for the illustrative configuration `CFG_ILL`
(R70), and nothing in the schedule (notes/assumptions/1.md). -/
def State.reset : State where
  devices :=
    [{ kind := .ram, base := 0x0000, size := 0x1000, policy := .readWrite, order := .little,
       storage := { fill := 0, cells := [] }, loaded := false },
     { kind := .rom, base := 0x1000, size := 0x100, policy := .readOnly, order := .little,
       storage := { fill := 0, cells := [(0, 0x3E), (1, 0x05), (2, 0x76)] }, loaded := true }]
  memEntries := [{ dev := 0, base := 0x0000, size := 0x1000 }, { dev := 1, base := 0x1000, size := 0x100 }]
  ioEntries := []
  awMem := 16
  awIo := 16
  target := .ill2
  regs :=
    { cells :=
        [{ name := .a, width := .w8, reset := 0, val := 0 },
         { name := .pc, width := .w16, reset := 0x1000, val := 0x1000 }]
      halves := []
      pcName := .pc }
  pstate := .reset
  haltCause := .none
  fault := none
  setupDone := true
  memRef := some .mem
  ioRef := some .io
  instrIndex := 0
  dbg := none
  ibuf := []
  decoded := none
  lifecycle := .idle
  dying := false
  buildFailed := false
  interval := 1
  periph := []
  response := { cond := none, value := .none }
  blocked := false
  built := true
  port := []
  dbgAnswers := []
  dbgCount := 0

end Sys2Proof.Machine
end

