-- ==== Sys2Proof/WellFormed.lean ====
section
/-! DEFINITION. When an operand is one the spec gives a meaning: the register-file schema of R190, the configuration of
R250, and the operands of each instruction. The meanings refuse what these checks refuse (spec/93_implementation_defined.md
section 3). -/

namespace Sys2Proof

/-- The name a declaration declares. -/
def RegDecl.name : RegDecl → RegName
  | .storage n _ _ => n
  | .half n _ _ => n

/-- The width of storage register `r` in a schema. -/
def RegSpec.storageWidth? (spec : RegSpec) (r : RegName) : Option Width :=
  spec.decls.findSome? fun
    | .storage n w _ => if n = r then some w else none
    | .half _ _ _ => none

/-- How many half registers view part `p` of parent `r`. -/
def RegSpec.halvesOf (spec : RegSpec) (r : RegName) (p : Part) : Nat :=
  spec.decls.countP fun
    | .storage _ _ _ => false
    | .half _ q p' => q == r && p' == p

/-- One declaration is admissible in its schema: a reset value fits its register, a storage register has no halves or
one `Hi` and one `Lo`, and a half's parent is a storage register of 16, 32 or 64 bits (R190). -/
def RegDecl.wf (spec : RegSpec) : RegDecl → Bool
  | .storage n w v =>
    decide (v.toNat < 2 ^ w.bits) &&
      ((spec.halvesOf n .hi == 0 && spec.halvesOf n .lo == 0) || (spec.halvesOf n .hi == 1 && spec.halvesOf n .lo == 1))
  | .half _ q _ =>
    match spec.storageWidth? q with
    | some w => decide (w ≠ .w8)
    | none => false

/-- The names of a schema are unique (R190). -/
def RegSpec.namesUnique (spec : RegSpec) : Bool :=
  decide (spec.decls.map RegDecl.name).Nodup

/-- The program counter is a storage register no wider than an address of `MEM` (R7 (a), R190). -/
def RegSpec.pcFits (spec : RegSpec) (awMem : Nat) : Bool :=
  match spec.storageWidth? spec.pcName with
  | some w => decide (w.bits ≤ awMem)
  | none => false

/-- A schema `RegSpec` as R190 has it. -/
def RegSpec.wf (spec : RegSpec) (awMem : Nat) : Bool :=
  spec.namesUnique && spec.decls.all (fun d => d.wf spec) && spec.pcFits awMem

/-- The Router a configured Device goes to (R69). -/
def DeviceKind.space : DeviceKind → Space
  | .ram => .mem
  | .rom => .mem
  | .ioPort => .io

/-- A range lies inside an address space of `aw` bits and is not empty (R22, R152). -/
def rangeFits (base size aw : Nat) : Bool :=
  decide (1 ≤ size) && decide (base + size ≤ 2 ^ aw)

/-- The initial bytes of a Device fit it: `storage` has exactly `size` bytes (R20). -/
def InitBytes.fits (init : InitBytes) (size : Nat) : Bool :=
  decide (init.bytes.length ≤ size)

/-- The address width of a space, from the two parameters of R5. -/
def Space.width (sp : Space) (awMem awIo : Nat) : Nat :=
  match sp with
  | .mem => awMem
  | .io => awIo

/-- A configuration element that is not malformed (R250). -/
def ConfigEntry.wf (c : ConfigEntry) (awMem awIo : Nat) : Bool :=
  rangeFits c.base c.size (c.kind.space.width awMem awIo) && c.init.fits c.size

/-- A Device outside the layout has at least one byte (R6). -/
def DeviceSpec.wf (d : DeviceSpec) : Bool :=
  decide (1 ≤ d.size) && d.init.fits d.size

/-- The operand of `BUILD` is not malformed: `FREQ_HZ > 0`, `AW ≥ 1`, every element as above, the target's schema as
R190 has it (R5, R8, R250). -/
def BuildArg.wf (b : BuildArg) : Bool :=
  decide (1 ≤ b.awMem) && decide (1 ≤ b.awIo) && decide (0 < b.freqHz) &&
    b.config.all (fun c => c.wf b.awMem b.awIo) && b.spares.all DeviceSpec.wf &&
    (Config.regSpecOf b.target).wf b.awMem

/-- A global address of a space of `aw` bits (R5, R90). -/
def addressFits (addr aw : Nat) : Bool :=
  decide (addr < 2 ^ aw)

/-- The operands of an instruction are ones the spec gives a meaning, for address widths `awMem` and `awIo`: a global
address lies in its space (R90), a registered range is not degenerate (R152), `SETUP` names `MEM` and `IO` (R210), and
`BUILD`'s operand is not malformed (R250). -/
def Instr.wf (awMem awIo : Nat) : Instr → Bool
  | .fetch8 a | .fetch16 a | .fetch32 a | .fetch64 a => addressFits a awMem
  | .store8 a _ => addressFits a awMem
  | .store16 a _ => addressFits a awMem
  | .store32 a _ => addressFits a awMem
  | .store64 a _ => addressFits a awMem
  | .in8 a | .in16 a | .in32 a | .in64 a => addressFits a awIo
  | .out8 a _ => addressFits a awIo
  | .out16 a _ => addressFits a awIo
  | .out32 a _ => addressFits a awIo
  | .out64 a _ => addressFits a awIo
  | .dfetch8 _ _ | .dfetch16 _ _ | .dfetch32 _ _ | .dfetch64 _ _ => true
  | .dstore8 _ _ _ | .dstore16 _ _ _ | .dstore32 _ _ _ | .dstore64 _ _ _ => true
  | .din8 _ _ | .din16 _ _ | .din32 _ _ | .din64 _ _ => true
  | .dout8 _ _ _ | .dout16 _ _ _ | .dout32 _ _ _ | .dout64 _ _ _ => true
  | .regm _ base size => rangeFits base size awMem
  | .regio _ base size => rangeFits base size awIo
  | .dload _ _ => true
  | .rdreg _ | .wrreg _ _ | .getregs | .printregs _ => true
  | .setup m i => m == .mem && i == .io
  | .reset | .fetchi | .decodei | .execi => true
  | .setupdebug _ | .stopdebug | .asm _ | .disasm _ => true
  | .build b => b.wf
  | .start | .stop | .initthread | .exitthread | .flushthread | .workerstep => true
  | .ldiA _ | .hlt => true

end Sys2Proof
end

