-- ==== Sys2Proof/Machine/Ops.lean ====
section
/-! DEFINITION. The named operations over memory, Devices, Routers and the command port, the taking of a condition, and
the reset of the Processor: spec/20_memory.md, 40_device.md R120 and R121, 41_router.md R150 and R151, 60_exceptions.md
R294 and R295, 43_processor.md R211. -/

namespace Sys2Proof.Machine

/-! ## Storage, byte by byte -/

/-- The byte at offset `i` of a cell list whose unlisted offsets read as `fill`. -/
def readCell (fill : Byte) (i : Nat) : List Host.Cell → Byte
  | [] => fill
  | c :: rest => if c.1 = i then c.2 else readCell fill i rest

/-- The cell list with `b` at offset `i`, in canonical form: offsets strictly rising, no cell equal to `fill`. -/
def putCell (fill : Byte) (i : Nat) (b : Byte) : List Host.Cell → List Host.Cell
  | [] => if b = fill then [] else [(i, b)]
  | c :: rest =>
    if i < c.1 then (if b = fill then c :: rest else (i, b) :: c :: rest)
    else if i = c.1 then (if b = fill then rest else (i, b) :: rest)
    else c :: putCell fill i b rest

/-- `storage[i]` (R20). -/
def Memory.read (m : Memory) (i : Nat) : Byte := readCell m.fill i m.cells

/-- `storage[i] <- b` (R20). -/
def Memory.write (m : Memory) (i : Nat) (b : Byte) : Memory := { m with cells := putCell m.fill i b m.cells }

/-- The canonical form of a storage: offsets strictly rising, and no listed byte equal to what an unlisted offset reads
as. -/
abbrev Memory.wf (m : Memory) : Prop :=
  m.cells.Pairwise (fun a b => a.1 < b.1) ∧ ∀ c ∈ m.cells, c.2 ≠ m.fill

/-- The bytes at offsets `off .. off + n − 1`, lowest offset first (R61). -/
def Memory.readSpan (m : Memory) (off : Nat) : Nat → List Byte
  | 0 => []
  | n + 1 => m.read off :: m.readSpan (off + 1) n

/-- The storage with a byte list written from `off` upward (R61). -/
def Memory.writeSpan (m : Memory) (off : Nat) : List Byte → Memory
  | [] => m
  | b :: rest => (m.write off b).writeSpan (off + 1) rest

/-! ## Byte order (R60, R61) -/

/-- `Σ b_i · 256^i`: the first byte of the list is the least significant. -/
def leValue : List Byte → Nat
  | [] => 0
  | b :: rest => b.toNat + 256 * leValue rest

/-- The low `n` bytes of a value, least significant first. -/
def leBytes : Nat → Nat → List Byte
  | 0, _ => []
  | n + 1, v => BitVec.ofNat 8 v :: leBytes n (v / 256)

/-- The value of the bytes of an access, lowest offset first, in a Device's order. -/
def valueOfBytes (order : ByteOrder) (bytes : List Byte) : Word :=
  match order with
  | .little => BitVec.ofNat 64 (leValue bytes)
  | .big => BitVec.ofNat 64 (leValue bytes.reverse)

/-- The `n` bytes of a value, lowest offset first, in a Device's order. -/
def bytesOfValue (order : ByteOrder) (n : Nat) (v : Word) : List Byte :=
  match order with
  | .little => leBytes n v.toNat
  | .big => (leBytes n v.toNat).reverse

/-! ## Device accesses -/

/-- The span of an access in the payload of `OutOfRange`: only when it has more than one byte (R282). -/
def payloadSpan (off n : Nat) : Option (Nat × Nat) :=
  if 1 < n then some (off, off + n) else none

/-- `DevRead` (R120). -/
def Device.read (d : Device) (off : Nat) (w : Width) : Except Condition Word :=
  if d.size < off + w.bytes then .error (.outOfRange off d.size (payloadSpan off w.bytes))
  else .ok (valueOfBytes d.order (d.storage.readSpan off w.bytes))

/-- `DevWrite` (R121): the policy before the range, both before any byte. -/
def Device.write (d : Device) (off : Nat) (w : Width) (v : Word) : Except Condition Device :=
  if d.policy = .readOnly then .error (.writeProtected off w)
  else if d.size < off + w.bytes then .error (.outOfRange off d.size (payloadSpan off w.bytes))
  else .ok { d with storage := d.storage.writeSpan off (bytesOfValue d.order w.bytes v) }

/-- The bytes of a list from offset 0, without the policy check; a list longer than the Device is `OutOfRange` (R138). -/
def Device.load (d : Device) (bytes : List Byte) : Except Condition Device :=
  if d.size < bytes.length then .error (.outOfRange 0 d.size (some (0, bytes.length)))
  else .ok { d with storage := d.storage.writeSpan 0 bytes }

/-! ## Routers -/

/-- The result of an access: a value, one of the seven conditions, or a refusal (R14). -/
inductive Access (α : Type) where
  | ok (a : α)
  | raise (c : Condition)
  | refuse (r : Refusal)
deriving Repr

/-- The address width of a Router (R22). -/
def State.addressWidth (s : State) (sp : Space) : Nat := sp.width s.awMem s.awIo

/-- The entries of a Router, in registration order (R22). -/
def State.entries (s : State) : Space → List RouterEntry
  | .mem => s.memEntries
  | .io => s.ioEntries

/-- The registered ranges of a Router, for the payload of `Unmapped` (R281). -/
def State.ranges (s : State) (sp : Space) : List (Nat × Nat) := (s.entries sp).map fun e => (e.base, e.size)

/-- An entry owns exactly the addresses of its half-open range (R71). -/
def RouterEntry.owns (e : RouterEntry) (addr : Nat) : Bool :=
  decide (e.base ≤ addr) && decide (addr < e.base + e.size)

/-- `Lookup` (R150). -/
def lookup (entries : List RouterEntry) (addr : Nat) : Option RouterEntry :=
  entries.find? fun e => e.owns addr

/-- Where a Router sends an access: the Device's number, the Device, and the local offset. -/
structure Routed where
  dev : Nat
  device : Device
  off : Nat
deriving DecidableEq, Repr

/-- The Router's part of `RouterAccess` (R151): ownership of the first byte, containment of the span, translation. An
`addr` beyond the space is no address of it (R90). -/
def route (s : State) (sp : Space) (addr : Nat) (w : Width) : Access Routed :=
  if !addressFits addr (s.addressWidth sp) then .refuse .notAnAddress
  else
    match lookup (s.entries sp) addr with
    | none => .raise (.unmapped addr (s.ranges sp))
    | some e =>
      if e.base + e.size < addr + w.bytes then .raise (.unmapped addr (s.ranges sp))
      else
        match s.devices[e.dev]? with
        | none => .refuse .noSuchDevice
        | some d => .ok { dev := e.dev, device := d, off := addr - e.base }

/-- `RouterAccess(r, read, A, n, -)` (R151). -/
def routerRead (s : State) (sp : Space) (addr : Nat) (w : Width) : Access Word :=
  match route s sp addr w with
  | .refuse r => .refuse r
  | .raise c => .raise c
  | .ok t =>
    match t.device.read t.off w with
    | .error c => .raise c
    | .ok v => .ok v

/-- State with Device number `i` replaced. -/
def State.setDevice (s : State) (i : Nat) (d : Device) : State := { s with devices := s.devices.set i d }

/-- `RouterAccess(r, write, A, n, v)` (R151). -/
def routerWrite (s : State) (sp : Space) (addr : Nat) (w : Width) (v : Word) : Access State :=
  match route s sp addr w with
  | .refuse r => .refuse r
  | .raise c => .raise c
  | .ok t =>
    match t.device.write t.off w v with
    | .error c => .raise c
    | .ok d => .ok (s.setDevice t.dev d)

/-- A Device-level read (R120) of the Device a command names. -/
def deviceRead (s : State) (dev off : Nat) (w : Width) : Access Word :=
  match s.devices[dev]? with
  | none => .refuse .noSuchDevice
  | some d =>
    match d.read off w with
    | .error c => .raise c
    | .ok v => .ok v

/-- A Device-level write (R121) of the Device a command names. -/
def deviceWrite (s : State) (dev off : Nat) (w : Width) (v : Word) : Access State :=
  match s.devices[dev]? with
  | none => .refuse .noSuchDevice
  | some d =>
    match d.write off w v with
    | .error c => .raise c
    | .ok d' => .ok (s.setDevice dev d')

/-- Byte `i` of the storage of Device `dev`; 0 where there is no such Device. The reading of one byte that the frame
statements use. -/
def State.storageByte (s : State) (dev i : Nat) : Byte :=
  match s.devices[dev]? with
  | some d => d.storage.read i
  | none => 0

/-! ## Registration (R152) -/

/-- Two half-open ranges intersect: each starts before the other ends. -/
def RouterEntry.overlaps (e : RouterEntry) (base size : Nat) : Bool :=
  decide (base < e.base + e.size) && decide (e.base < base + size)

/-- A Device occurs in an entry of one of the Routers. -/
def State.isRegistered (s : State) (dev : Nat) : Bool :=
  s.memEntries.any (fun e => e.dev == dev) || s.ioEntries.any (fun e => e.dev == dev)

/-- The entry appended to a Router. -/
def State.addEntry (s : State) (sp : Space) (e : RouterEntry) : State :=
  match sp with
  | .mem => { s with memEntries := s.memEntries ++ [e] }
  | .io => { s with ioEntries := s.ioEntries ++ [e] }

/-- `Register(r, d, base, size)` (R152): the refusals, the overlap test, the new entry and the Device's copy of its
base. -/
def register (s : State) (sp : Space) (dev base size : Nat) : Access State :=
  if s.lifecycle ≠ .idle then .refuse .notIdle
  else if !rangeFits base size (s.addressWidth sp) then .refuse .malformedRange
  else
    match s.devices[dev]? with
    | none => .refuse .noSuchDevice
    | some d =>
      if s.isRegistered dev then .refuse .deviceRegistered
      else
        match (s.entries sp).find? fun e => e.overlaps base size with
        | some e => .raise (.overlappingRegistration (base, size) (e.base, e.size))
        | none => .ok ((s.addEntry sp { dev, base, size }).setDevice dev { d with base })

/-! ## The command port -/

/-- The phases in which the controller may touch the block: `Idle` and `Stopped` (R299, R331). -/
def State.quiet (s : State) : Bool := s.lifecycle == .idle || s.lifecycle == .stopped

/-- The phases in which there is a worker: `Running` and `Stopping` (R253). -/
def State.active (s : State) : Bool := s.lifecycle == .running || s.lifecycle == .stopping

/-- The response of an operation that ended in a result (R14, R90). -/
def State.answer (s : State) (v : RespValue) : State := { s with response := { cond := none, value := v } }

/-- The response of an operation of the controller that raised a condition: the condition and its payload, and no other
change (R295). -/
def State.report (s : State) (c : Condition) : State := { s with response := { cond := some c, value := .none } }

/-- The outcome of a read command. -/
def answerRead (s : State) (w : Width) : Access Word → Host.Outcome State Fault Refusal
  | .ok v => .next (s.answer (.data w v))
  | .raise c => .next (s.report c)
  | .refuse r => .refused r

/-- The outcome of a command that changes state. -/
def answerWrite (s : State) : Access State → Host.Outcome State Fault Refusal
  | .ok s' => .next (s'.answer .none)
  | .raise c => .next (s.report c)
  | .refuse r => .refused r

/-- A command of the controller that touches the block: refused while the worker owns it (R299, R331). -/
def whenQuiet (s : State) (k : Host.Outcome State Fault Refusal) : Host.Outcome State Fault Refusal :=
  if s.quiet then k else .refused .workerOwnsBlock

/-! ## The codes of the enumerations (R280, and R29, R30, R34) -/

/-- The 3-bit code of a condition (R280). -/
def Condition.code : Condition → BitVec 3
  | .unmapped _ _ => 1
  | .outOfRange _ _ _ => 2
  | .writeProtected _ _ => 3
  | .unknownInstruction _ => 4
  | .unknownOpcode _ => 5
  | .invalidOperand _ _ => 6
  | .overlappingRegistration _ _ => 7

/-- `cond` of a response: 0 for no condition (R90, R280). -/
def Response.code (r : Response) : BitVec 3 :=
  match r.cond with
  | none => 0
  | some c => c.code

/-- The 3-bit code of `pstate` (R29). -/
def PState.code : PState → BitVec 3
  | .reset => 0
  | .fetching => 1
  | .decoding => 2
  | .executing => 3
  | .halted => 4

/-- The 2-bit code of `halt_cause` (R30). -/
def HaltCause.code : HaltCause → BitVec 2
  | .none => 0
  | .haltInstruction => 1
  | .debugRequested => 2
  | .fault => 3

/-- The 2-bit code of `lifecycle` (R34). -/
def Lifecycle.code : Lifecycle → BitVec 2
  | .idle => 0
  | .running => 1
  | .stopping => 2
  | .stopped => 3

/-! ## Taking a condition in the worker loop, and the way back -/

/-- `WorkerExit` (R257): the exit hook, which is no operation (R255), then `lifecycle <- Stopped`; a controller waiting
in `STOP` returns (R252). -/
def workerExit (s : State) : State :=
  { s with
    lifecycle := .stopped
    blocked := false
    response := if s.blocked then { cond := none, value := .none } else s.response }

/-- The fault halt (R294): the Processor halted, the cause and the record written, the ticks and the wait skipped, the
worker gone. Everything else stays as the failing operation left it. -/
def takeFault (s : State) (c : Condition) : State :=
  workerExit { s with pstate := .halted, haltCause := .fault, fault := some c }

/-- Every storage register at its reset value (R211). -/
def RegFile.resetAll (f : RegFile) : RegFile :=
  { f with cells := f.cells.map fun c => { c with val := c.reset } }

/-- The body of `RESET` (R211), the only way back from a halt (R298): there is no return from a fault. -/
def resetProcessor (s : State) : State :=
  { s with
    regs := s.regs.resetAll
    pstate := .reset
    haltCause := .none
    fault := none
    instrIndex := 0
    ibuf := []
    decoded := none }

/-- The stop report (R259). -/
inductive StopReport where
  | faultHalt (c : Condition)
  | debugHalt
  | instructionHalt
  | stopRequested
deriving DecidableEq, Repr

/-- What the controller reads when a run has ended (R259): there is a report only when `lifecycle = Stopped`. -/
def State.stopReport (s : State) : Option StopReport :=
  if s.lifecycle = .stopped then
    match s.haltCause, s.fault with
    | .fault, some c => some (.faultHalt c)
    | .fault, none => none
    | .debugRequested, _ => some .debugHalt
    | .haltInstruction, _ => some .instructionHalt
    | .none, _ => some .stopRequested
  else none

end Sys2Proof.Machine
end

