-- ==== Sys2Proof/Machine/Operands.lean ====
section
/-! DEFINITION. Register operands, whole and half (spec/42_regfile.md R190 to R193), the program counter (10_state.md
R28), and the slicing of `data` (30_encoding.md R90). -/

namespace Sys2Proof.Machine

/-- The low `n` bits set. -/
def maskBits (n : Nat) : Word := BitVec.ofNat 64 (2 ^ n - 1)

/-- `data[w − 1 : 0]` (R9, R90). -/
def sliceData (w : Width) (v : Word) : Word := v &&& maskBits w.bits

/-- The width of a half of a register of width `w` (R190). -/
def halfWidth : Width → Width
  | .w8 => .w8
  | .w16 => .w8
  | .w32 => .w16
  | .w64 => .w32

/-- A half of a parent of width `w` (R191), by shift and mask. -/
def readPart (p : Part) (w : Width) (v : Word) : Word :=
  match p with
  | .hi => (v >>> (w.bits / 2)) &&& maskBits (w.bits / 2)
  | .lo => v &&& maskBits (w.bits / 2)

/-- The parent of width `w` with one half replaced (R192): the other half keeps its bits. -/
def writePart (p : Part) (w : Width) (parent v : Word) : Word :=
  match p with
  | .hi => ((v &&& maskBits (w.bits / 2)) <<< (w.bits / 2)) ||| (parent &&& maskBits (w.bits / 2))
  | .lo => (parent &&& ~~~(maskBits (w.bits / 2))) ||| (v &&& maskBits (w.bits / 2))

/-- The storage register of a name. -/
def RegFile.cell? (f : RegFile) (r : RegName) : Option RegCell := f.cells.find? fun c => c.name == r

/-- The half register of a name. -/
def RegFile.half? (f : RegFile) (r : RegName) : Option HalfReg := f.halves.find? fun h => h.name == r

/-- `x[r]` (R191, R193); none for a name not in `RegSpec`. -/
def RegFile.read (f : RegFile) (r : RegName) : Option Word :=
  match f.cell? r with
  | some c => some c.val
  | none =>
    match f.half? r with
    | none => none
    | some h => (f.cell? h.parent).map fun c => readPart h.part c.width c.val

/-- The width of a register, whole or half (R190). -/
def RegFile.width? (f : RegFile) (r : RegName) : Option Width :=
  match f.cell? r with
  | some c => some c.width
  | none =>
    match f.half? r with
    | none => none
    | some h => (f.cell? h.parent).map fun c => halfWidth c.width

/-- A storage register's value replaced; every other register keeps its own (R193). -/
def RegFile.setCell (f : RegFile) (r : RegName) (v : Word) : RegFile :=
  { f with cells := f.cells.map fun c => if c.name = r then { c with val := v } else c }

/-- `x[r] <- v` for a `v` of the register's width (R192, R193); none for a name not in `RegSpec`. -/
def RegFile.write (f : RegFile) (r : RegName) (v : Word) : Option RegFile :=
  match f.cell? r with
  | some _ => some (f.setCell r v)
  | none =>
    match f.half? r with
    | none => none
    | some h => (f.cell? h.parent).map fun c => f.setCell h.parent (writePart h.part c.width c.val v)

/-- The value `GETREGS` and the debug callback see: every storage register with its value (R196, R221). -/
def RegFile.view (f : RegFile) : List (RegName × Word) := f.cells.map fun c => (c.name, c.val)

/-- `pc`, the program counter (R28). -/
def RegFile.pc (f : RegFile) : Word :=
  match f.cell? f.pcName with
  | some c => c.val
  | none => 0

/-- `PCW`, the width of the program counter in bits (R7). -/
def RegFile.pcBits (f : RegFile) : Nat :=
  match f.cell? f.pcName with
  | some c => c.width.bits
  | none => 0

/-- `pc <- t` (R11). -/
def RegFile.setPc (f : RegFile) (t : Word) : RegFile := f.setCell f.pcName t

/-- `(pc + 1) mod 2^PCW` (R28). -/
def RegFile.pcPlusOne (f : RegFile) : Word := BitVec.ofNat 64 ((f.pc.toNat + 1) % 2 ^ f.pcBits)

/-- The register file of a schema, every storage register at its reset value (R24, R190). -/
def RegFile.ofSpec (spec : RegSpec) : RegFile where
  cells := spec.decls.filterMap fun
    | .storage n w v => some { name := n, width := w, reset := v, val := v }
    | .half _ _ _ => none
  halves := spec.decls.filterMap fun
    | .storage _ _ _ => none
    | .half n q p => some { name := n, parent := q, part := p }
  pcName := spec.pcName

/-- State with its register file replaced. -/
def State.withRegs (s : State) (f : RegFile) : State := { s with regs := f }

/-- The command `x[r] <- data[w − 1 : 0]`, `w` the register's width (R195). -/
def writeRegisterSlice (s : State) (r : RegName) (data : Word) : Access State :=
  match s.regs.width? r with
  | none => .refuse .noSuchRegister
  | some w =>
    match s.regs.write r (sliceData w data) with
    | none => .refuse .noSuchRegister
    | some f => .ok (s.withRegs f)

/-- `x[r] <- v` inside `Exec` (R193): a `v` wider than the register is a type error of the target. -/
def writeRegisterExact (s : State) (r : RegName) (v : Word) : Option State :=
  match s.regs.width? r with
  | none => none
  | some w => if v.toNat < 2 ^ w.bits then (s.regs.write r v).map s.withRegs else none

end Sys2Proof.Machine
end

