-- ==== Sys2Proof/Machine/DeviceFamily.lean ====
section
/-! DEFINITION. The Device family: `DFETCHw`, `DSTOREw`, `DINw`, `DOUTw`, `DLOAD` (spec/40_device.md R122 to R138). Each is
a command of the controller on one Device and a local offset, refused while the worker owns the block (R299); a
condition is its response (R295). -/

namespace Sys2Proof.Machine

/-- A Device read at the port (R120). -/
def deviceReadCommand (w : Width) (dev off : Nat) (s : State) : Host.Outcome State Fault Refusal :=
  whenQuiet s (answerRead s w (deviceRead s dev off w))

/-- A Device write at the port (R121). -/
def deviceWriteCommand (w : Width) (dev off : Nat) (v : Word) (s : State) : Host.Outcome State Fault Refusal :=
  whenQuiet s (answerWrite s (deviceWrite s dev off w v))

/-- `DFETCH8` (R122). -/
def execDfetch8 (dev off : Nat) (s : State) : Host.Outcome State Fault Refusal := deviceReadCommand .w8 dev off s

/-- `DFETCH16` (R123). -/
def execDfetch16 (dev off : Nat) (s : State) : Host.Outcome State Fault Refusal := deviceReadCommand .w16 dev off s

/-- `DFETCH32` (R124). -/
def execDfetch32 (dev off : Nat) (s : State) : Host.Outcome State Fault Refusal := deviceReadCommand .w32 dev off s

/-- `DFETCH64` (R125). -/
def execDfetch64 (dev off : Nat) (s : State) : Host.Outcome State Fault Refusal := deviceReadCommand .w64 dev off s

/-- `DSTORE8` (R126). -/
def execDstore8 (dev off : Nat) (data : BitVec 8) (s : State) : Host.Outcome State Fault Refusal :=
  deviceWriteCommand .w8 dev off (data.setWidth 64) s

/-- `DSTORE16` (R127). -/
def execDstore16 (dev off : Nat) (data : BitVec 16) (s : State) : Host.Outcome State Fault Refusal :=
  deviceWriteCommand .w16 dev off (data.setWidth 64) s

/-- `DSTORE32` (R128). -/
def execDstore32 (dev off : Nat) (data : BitVec 32) (s : State) : Host.Outcome State Fault Refusal :=
  deviceWriteCommand .w32 dev off (data.setWidth 64) s

/-- `DSTORE64` (R129). -/
def execDstore64 (dev off : Nat) (data : BitVec 64) (s : State) : Host.Outcome State Fault Refusal :=
  deviceWriteCommand .w64 dev off data s

/-- `DIN8` (R130). -/
def execDin8 (dev off : Nat) (s : State) : Host.Outcome State Fault Refusal := deviceReadCommand .w8 dev off s

/-- `DIN16` (R131). -/
def execDin16 (dev off : Nat) (s : State) : Host.Outcome State Fault Refusal := deviceReadCommand .w16 dev off s

/-- `DIN32` (R132). -/
def execDin32 (dev off : Nat) (s : State) : Host.Outcome State Fault Refusal := deviceReadCommand .w32 dev off s

/-- `DIN64` (R133). -/
def execDin64 (dev off : Nat) (s : State) : Host.Outcome State Fault Refusal := deviceReadCommand .w64 dev off s

/-- `DOUT8` (R134). -/
def execDout8 (dev off : Nat) (data : BitVec 8) (s : State) : Host.Outcome State Fault Refusal :=
  deviceWriteCommand .w8 dev off (data.setWidth 64) s

/-- `DOUT16` (R135). -/
def execDout16 (dev off : Nat) (data : BitVec 16) (s : State) : Host.Outcome State Fault Refusal :=
  deviceWriteCommand .w16 dev off (data.setWidth 64) s

/-- `DOUT32` (R136). -/
def execDout32 (dev off : Nat) (data : BitVec 32) (s : State) : Host.Outcome State Fault Refusal :=
  deviceWriteCommand .w32 dev off (data.setWidth 64) s

/-- `DOUT64` (R137). -/
def execDout64 (dev off : Nat) (data : BitVec 64) (s : State) : Host.Outcome State Fault Refusal :=
  deviceWriteCommand .w64 dev off data s

/-- `DLOAD` (R138): a ROM only, only while `lifecycle = Idle`, only once; no policy check. -/
def loadRom (s : State) (dev : Nat) (bytes : List Byte) : Access State :=
  match s.devices[dev]? with
  | none => .refuse .noSuchDevice
  | some d =>
    if d.kind ≠ .rom then .refuse .notRom
    else if s.lifecycle ≠ .idle then .refuse .notIdle
    else if d.loaded then .refuse .alreadyLoaded
    else
      match d.load bytes with
      | .error c => .raise c
      | .ok d' => .ok (s.setDevice dev { d' with loaded := true })

/-- `DLOAD` at the port (R138). -/
def execDload (dev : Nat) (bytes : List Byte) (s : State) : Host.Outcome State Fault Refusal :=
  answerWrite s (loadRom s dev bytes)

end Sys2Proof.Machine
end

