-- ==== Sys2Proof/Machine/Flags.lean ====
section
/-! DEFINITION. The block's only flag, the dying flag (spec/10_state.md R35): the block has no condition codes, and no
operation of it computes a flag from a result (R228). -/

namespace Sys2Proof.Machine

/-- `START` clears the dying flag (R251). -/
def clearDying (s : State) : State := { s with dying := false }

/-- `STOP` sets the dying flag (R252). -/
def setDying (s : State) : State := { s with dying := true }

/-- An instruction has begun and has not completed (R220, R258): `FETCHI` has ended and `EXECI` has not. Everywhere else
the worker stands at an instruction boundary. -/
def State.inFlight (s : State) : Bool := s.pstate == .decoding || s.pstate == .executing

/-- The worker's test at an instruction boundary, the only place the flag is read (R253, R297): never while an
instruction is in flight (R35, R258). -/
def exitsAtBoundary (s : State) : Bool := !s.inFlight && (s.dying || s.pstate == .halted)

/-- A worker asked to stop stands at an instruction boundary of a Processor that is not halted (R253): there it begins no
instruction. A halted Processor is not this case: it ignores what is issued to it (R225). -/
def stopsAtBoundary (s : State) : Bool := s.dying && exitsAtBoundary s && s.pstate != .halted

end Sys2Proof.Machine
end

