-- ==== Sys2Proof/Machine/Assembler.lean ====
section
/-! DEFINITION. The single-instruction assembler and disassembler of `ILL2` (spec/30_encoding.md R103, 43_processor.md
R217 to R219). -/

namespace Sys2Proof.Machine

/-- A letter in upper case; any other character unchanged. -/
def upperChar (c : Char) : Char :=
  if 97 ≤ c.toNat ∧ c.toNat ≤ 122 then Char.ofNat (c.toNat - 32) else c

/-- A text in upper case: `Asm` accepts any letter case (R103; spec/92_eei_decisions.md D41). -/
def upperText (t : Text) : Text := t.map upperChar

/-- The value of a hexadecimal digit of either case. -/
def hexValue? (c : Char) : Option Nat :=
  if 48 ≤ c.toNat ∧ c.toNat ≤ 57 then some (c.toNat - 48)
  else if 65 ≤ c.toNat ∧ c.toNat ≤ 70 then some (c.toNat - 55)
  else if 97 ≤ c.toNat ∧ c.toNat ≤ 102 then some (c.toNat - 87)
  else none

/-- The upper-case hexadecimal digit of a value below 16. -/
def hexDigit (n : Nat) : Char :=
  if n < 10 then Char.ofNat (48 + n) else Char.ofNat (55 + n)

/-- A text cut at the first occurrence of a character: what stands before it, and what stands after it if it occurs. -/
def cutAt (sep : Char) : Text → Text × Option Text
  | [] => ([], none)
  | c :: rest =>
    if c = sep then ([], some rest)
    else
      let (before, after) := cutAt sep rest
      (c :: before, after)

/-- A text without its leading spaces. -/
def dropSpaces : Text → Text
  | [] => []
  | c :: rest => if c = ' ' then dropSpaces rest else c :: rest

/-- The immediate of `LDI A`: `0x` and one or two hexadecimal digits (R103). -/
def parseImm8 : Text → Option Byte
  | ['0', x, d] => if upperChar x = 'X' then (hexValue? d).map (BitVec.ofNat 8) else none
  | ['0', x, d1, d0] =>
    if upperChar x = 'X' then
      match hexValue? d1, hexValue? d0 with
      | some h, some l => some (BitVec.ofNat 8 (16 * h + l))
      | _, _ => none
    else none
  | _ => none

/-- The token `InvalidOperand` expects where the accumulator must stand (R217). -/
def expectA : Text := ['A']

/-- The token `InvalidOperand` expects where the immediate must stand (R217). -/
def expectImm8 : Text := ['8', '-', 'b', 'i', 't', ' ', 'i', 'm', 'm', 'e', 'd', 'i', 'a', 't', 'e']

/-- The token `InvalidOperand` expects where the text must end (R217). -/
def expectEnd : Text := ['e', 'n', 'd', ' ', 'o', 'f', ' ', 'l', 'i', 'n', 'e']

/-- The operands of `LDI`: the register up to the comma, then, after any spaces, the immediate (R103). -/
def asmLdi (operands : Text) : AsmAnswer :=
  let (register, afterComma) := cutAt ',' operands
  if upperText register ≠ ['A'] then .invalidOperand expectA register
  else
    match afterComma with
    | none => .invalidOperand expectImm8 []
    | some rest =>
      let (token, extra) := cutAt ' ' (dropSpaces rest)
      match parseImm8 token, extra with
      | none, _ => .invalidOperand expectImm8 token
      | some imm, none => .bytes [0x3E, imm]
      | some _, some more => .invalidOperand expectEnd more

/-- `Asm` of `ILL2` (R103, R217): the mnemonic is judged first, then the operands. What the spec does not say of
malformed text, and the tokens its payloads carry, is notes/assumptions/8.md. -/
def ill2Asm (t : Text) : AsmAnswer :=
  let (mnemonic, operands) := cutAt ' ' t
  if upperText mnemonic = ['H', 'L', 'T'] then
    match operands with
    | none => .bytes [0x76]
    | some more => .invalidOperand expectEnd more
  else if upperText mnemonic = ['L', 'D', 'I'] then
    match operands with
    | none => .invalidOperand expectA []
    | some rest => asmLdi rest
  else .unknownOpcode mnemonic

/-- `Disasm` of `ILL2` (R103, R218): canonical text, upper case, two digits. -/
def ill2Disasm : List Byte → DisasmAnswer
  | [] => .notOneInstruction
  | b :: rest =>
    if b = 0x3E then
      match rest with
      | [imm] => .text ['L', 'D', 'I', ' ', 'A', ',', '0', 'x', hexDigit (imm.toNat / 16), hexDigit (imm.toNat % 16)]
      | _ => .notOneInstruction
    else if b = 0x76 then
      match rest with
      | [] => .text ['H', 'L', 'T']
      | _ :: _ => .notOneInstruction
    else .unknownInstruction b

/-- `Asm` of a target (R217). -/
def targetAsm : TargetId → Text → AsmAnswer
  | .ill2, t => ill2Asm t
  | .external n, t => Config.externalAsm n t

/-- `Disasm` of a target (R218). -/
def targetDisasm : TargetId → List Byte → DisasmAnswer
  | .ill2, l => ill2Disasm l
  | .external n, l => Config.externalDisasm n l

end Sys2Proof.Machine
end

