-- ==== Sys2Proof/Decode.lean ====
section
/-! DEFINITION. The decoder and the encoder: command codes (spec/30_encoding.md R90 to R94), the instruction stream of
`ILL2` (R95 to R100), and the host's `decodeTableWord`. -/

namespace Sys2Proof

/-! ## The fields of a command code (R91) -/

/-- `unit = op[7:6]`: 0 access, 1 configuration, 2 register file, 3 control. -/
def opUnit (op : Byte) : Nat := op.toNat / 64

/-- `op[5]`: in an access command, 0 for the Router and 1 for the Device. -/
def opLevel (op : Byte) : Nat := op.toNat / 32 % 2

/-- `op[4]`: the space of an access or configuration command, the owner of a control command. -/
def opSpace (op : Byte) : Nat := op.toNat / 16 % 2

/-- `op[3]`: 0 in every access command. -/
def opBit3 (op : Byte) : Nat := op.toNat / 8 % 2

/-- `op[2]`: 0 read, 1 write. -/
def opDir (op : Byte) : Nat := op.toNat / 4 % 2

/-- `wc = op[1:0]`, the width code. -/
def opWidthCode (op : Byte) : Nat := op.toNat % 4

/-- The width a width code names: `w = 8 · 2^wc`. -/
def widthOfCode : Nat → Width
  | 0 => .w8
  | 1 => .w16
  | 2 => .w32
  | _ => .w64

/-- The width code of a width. -/
def Width.code : Width → Nat
  | .w8 => 0
  | .w16 => 1
  | .w32 => 2
  | .w64 => 3

/-- The space bit of a code. -/
def spaceOfBit : Nat → Space
  | 0 => .mem
  | _ => .io

/-! ## Decoding -/

/-- Why a command or a byte list is no instruction. `badOperand`, an `arg` of another kind than R93 gives the code, is the
model's choice (DESIGN CHOICE, notes/assumptions/20.md). -/
inductive DecodeError where
  | reservedOp (op : Byte)
  | badOperand (op : Byte)
  | incomplete
  | unknownOpcode (b : Byte)
  | trailingBytes
deriving DecidableEq, Repr, Inhabited

/-- An access command, by the fields of its code (R91, R92); `op[3] = 1` is reserved (R94). That an operand the command does
not take (an `arg`, a Router command's `dev`, a read's `data`) is ignored is the model's choice (DESIGN CHOICE,
notes/assumptions/20.md): the spec is silent. -/
def decodeAccess (c : Command) : Except DecodeError Instr :=
  if opBit3 c.op = 1 then .error (.reservedOp c.op)
  else
    let sp := spaceOfBit (opSpace c.op)
    let w := widthOfCode (opWidthCode c.op)
    match opLevel c.op, opDir c.op with
    | 0, 0 => .ok (Instr.routerRead sp w c.addr)
    | 0, _ => .ok (Instr.routerWrite sp w c.addr c.data)
    | _, 0 => .ok (Instr.deviceRead sp w c.dev c.addr)
    | _, _ => .ok (Instr.deviceWrite sp w c.dev c.addr c.data)

/-- A configuration, register-file or control command (R93); every other code is reserved (R94). Two points are the model's
choice, because the spec is silent (DESIGN CHOICE, notes/assumptions/20.md): an `arg` of another kind than R93 gives the
code is refused as `badOperand`, and an operand the command does not take is ignored. -/
def decodeNamed (c : Command) : Except DecodeError Instr :=
  match c.op.toNat, c.arg with
  | 0x40, .size n => .ok (.regm c.dev c.addr n)
  | 0x50, .size n => .ok (.regio c.dev c.addr n)
  | 0x41, .bytes l => .ok (.dload c.dev l)
  | 0x80, .reg r => .ok (.rdreg r)
  | 0x81, .reg r => .ok (.wrreg r c.data)
  | 0x82, _ => .ok .getregs
  | 0x83, .stream n => .ok (.printregs n)
  | 0xC0, .spaces m i => .ok (.setup m i)
  | 0xC1, _ => .ok .reset
  | 0xC2, _ => .ok .fetchi
  | 0xC3, _ => .ok .decodei
  | 0xC4, _ => .ok .execi
  | 0xC5, .callback n => .ok (.setupdebug n)
  | 0xC6, _ => .ok .stopdebug
  | 0xC7, .text t => .ok (.asm t)
  | 0xC8, .bytes l => .ok (.disasm l)
  | 0xD0, .config b => .ok (.build b)
  | 0xD1, _ => .ok .start
  | 0xD2, _ => .ok .stop
  | 0xD3, _ => .ok .initthread
  | 0xD4, _ => .ok .exitthread
  | 0xD5, _ => .ok .flushthread
  | 0xD6, _ => .ok .workerstep
  | n, _ =>
    if n ∈ [0x40, 0x41, 0x50, 0x80, 0x81, 0x83, 0xC0, 0xC5, 0xC7, 0xC8, 0xD0] then .error (.badOperand c.op)
    else .error (.reservedOp c.op)

/-- A command at the port (R90 to R94): total, and rejecting by name a reserved code (R94), or an operand of the wrong kind
(the model's choice, notes/assumptions/20.md). -/
def decodeCommand (c : Command) : Except DecodeError Instr :=
  if opUnit c.op = 0 then decodeAccess c else decodeNamed c

/-- `LenStep` of `ILL2` (R99). `FETCHI` asks no other list: the empty list is `More`, a list that goes on after a
complete or an unknown first byte is `Unknown` of its last byte, the last one fetched (R98), so that `Done` means an
instruction (R222 (b)); notes/assumptions/12.md. -/
def ill2LenStep : List Byte → LenAnswer
  | [] => .more
  | [b] => if b = 0x3E then .more else if b = 0x76 then .done else .unknown b
  | [b, c] => if b = 0x3E then .done else .unknown c
  | _ :: _ :: c :: rest => .unknown (rest.getLastD c)

/-- `MAXLEN` of `ILL2` (R99). -/
def ill2MaxLen : Nat := 2

/-- The bytes of exactly one instruction of `ILL2` (R96, R99, R100): total, and rejecting by name an empty or cut-off
list, an unknown opcode byte and bytes after the instruction. -/
def decodeStream : List Byte → Except DecodeError Instr
  | [] => .error .incomplete
  | b :: rest =>
    if b = 0x3E then
      match rest with
      | [] => .error .incomplete
      | [imm] => .ok (.ldiA imm)
      | _ :: _ :: _ => .error .trailingBytes
    else if b = 0x76 then
      match rest with
      | [] => .ok .hlt
      | _ :: _ => .error .trailingBytes
    else .error (.unknownOpcode b)

/-- The decoder. -/
def decode : Encoded → Except DecodeError Instr
  | .port c => decodeCommand c
  | .stream bytes => decodeStream bytes

/-! ## Encoding -/

/-- The code of an access command from its fields (R91). -/
def accessOp (level : Nat) (sp : Space) (dir : Nat) (w : Width) : Byte :=
  BitVec.ofNat 8 (32 * level + (match sp with | .mem => 0 | .io => 16) + 4 * dir + w.code)

/-- A Router read at the port. -/
def readCommand (sp : Space) (w : Width) (addr : Nat) : Encoded :=
  .port { op := accessOp 0 sp 0 w, dev := 0, addr, data := 0, arg := .none }

/-- A Router write at the port. -/
def writeCommand (sp : Space) (w : Width) (addr : Nat) (data : Word) : Encoded :=
  .port { op := accessOp 0 sp 1 w, dev := 0, addr, data, arg := .none }

/-- A Device read at the port. -/
def devReadCommand (sp : Space) (w : Width) (dev addr : Nat) : Encoded :=
  .port { op := accessOp 1 sp 0 w, dev, addr, data := 0, arg := .none }

/-- A Device write at the port. -/
def devWriteCommand (sp : Space) (w : Width) (dev addr : Nat) (data : Word) : Encoded :=
  .port { op := accessOp 1 sp 1 w, dev, addr, data, arg := .none }

/-- A command with an operand of its own kind only (R93). -/
def argCommand (op : Byte) (arg : Arg) : Encoded :=
  .port { op, dev := 0, addr := 0, data := 0, arg }

/-- The encoder: the command (R92, R93) or the stream bytes (R96) of an instruction. -/
def encode : Instr → Encoded
  | .fetch8 a => readCommand .mem .w8 a
  | .fetch16 a => readCommand .mem .w16 a
  | .fetch32 a => readCommand .mem .w32 a
  | .fetch64 a => readCommand .mem .w64 a
  | .store8 a v => writeCommand .mem .w8 a (v.setWidth 64)
  | .store16 a v => writeCommand .mem .w16 a (v.setWidth 64)
  | .store32 a v => writeCommand .mem .w32 a (v.setWidth 64)
  | .store64 a v => writeCommand .mem .w64 a v
  | .in8 a => readCommand .io .w8 a
  | .in16 a => readCommand .io .w16 a
  | .in32 a => readCommand .io .w32 a
  | .in64 a => readCommand .io .w64 a
  | .out8 a v => writeCommand .io .w8 a (v.setWidth 64)
  | .out16 a v => writeCommand .io .w16 a (v.setWidth 64)
  | .out32 a v => writeCommand .io .w32 a (v.setWidth 64)
  | .out64 a v => writeCommand .io .w64 a v
  | .dfetch8 d o => devReadCommand .mem .w8 d o
  | .dfetch16 d o => devReadCommand .mem .w16 d o
  | .dfetch32 d o => devReadCommand .mem .w32 d o
  | .dfetch64 d o => devReadCommand .mem .w64 d o
  | .dstore8 d o v => devWriteCommand .mem .w8 d o (v.setWidth 64)
  | .dstore16 d o v => devWriteCommand .mem .w16 d o (v.setWidth 64)
  | .dstore32 d o v => devWriteCommand .mem .w32 d o (v.setWidth 64)
  | .dstore64 d o v => devWriteCommand .mem .w64 d o v
  | .din8 d o => devReadCommand .io .w8 d o
  | .din16 d o => devReadCommand .io .w16 d o
  | .din32 d o => devReadCommand .io .w32 d o
  | .din64 d o => devReadCommand .io .w64 d o
  | .dout8 d o v => devWriteCommand .io .w8 d o (v.setWidth 64)
  | .dout16 d o v => devWriteCommand .io .w16 d o (v.setWidth 64)
  | .dout32 d o v => devWriteCommand .io .w32 d o (v.setWidth 64)
  | .dout64 d o v => devWriteCommand .io .w64 d o v
  | .regm d base size => .port { op := 0x40, dev := d, addr := base, data := 0, arg := .size size }
  | .regio d base size => .port { op := 0x50, dev := d, addr := base, data := 0, arg := .size size }
  | .dload d l => .port { op := 0x41, dev := d, addr := 0, data := 0, arg := .bytes l }
  | .rdreg r => argCommand 0x80 (.reg r)
  | .wrreg r v => .port { op := 0x81, dev := 0, addr := 0, data := v, arg := .reg r }
  | .getregs => argCommand 0x82 .none
  | .printregs n => argCommand 0x83 (.stream n)
  | .setup m i => argCommand 0xC0 (.spaces m i)
  | .reset => argCommand 0xC1 .none
  | .fetchi => argCommand 0xC2 .none
  | .decodei => argCommand 0xC3 .none
  | .execi => argCommand 0xC4 .none
  | .setupdebug n => argCommand 0xC5 (.callback n)
  | .stopdebug => argCommand 0xC6 .none
  | .asm t => argCommand 0xC7 (.text t)
  | .disasm l => argCommand 0xC8 (.bytes l)
  | .build b => argCommand 0xD0 (.config b)
  | .start => argCommand 0xD1 .none
  | .stop => argCommand 0xD2 .none
  | .initthread => argCommand 0xD3 .none
  | .exitthread => argCommand 0xD4 .none
  | .flushthread => argCommand 0xD5 .none
  | .workerstep => argCommand 0xD6 .none
  | .ldiA imm => .stream [0x3E, imm]
  | .hlt => .stream [0x76]

/-! ## One word of the opcode table

The table numbers an instruction's bits with byte 0 in the most significant place (its row `LDI_A` has `3E` in bits
15 to 8, as R96 writes it: byte 0 on the left); notes/assumptions/11.md. -/

/-- The operand `arg` of a command word of the table, which gives operands no bits (R90): zero, or for a type without
a zero the value notes/assumptions/11.md names. -/
def tableArg (op : Byte) : Arg :=
  match op.toNat with
  | 0x40 => .size 1
  | 0x50 => .size 1
  | 0x41 => .bytes []
  | 0x80 => .reg .pc
  | 0x81 => .reg .pc
  | 0x83 => .stream 0
  | 0xC0 => .spaces .mem .io
  | 0xC5 => .callback 0
  | 0xC7 => .text ['H', 'L', 'T']
  | 0xC8 => .bytes [0x76]
  | 0xD0 => .config Config.cfgIll
  | _ => .none

/-- The Device a command word of the table names: the first, and for `REGM`, `REGIO` and `DLOAD` the third. -/
def tableDev (op : Byte) : Nat :=
  if op.toNat = 0x40 ∨ op.toNat = 0x50 ∨ op.toNat = 0x41 then 2 else 0

/-- The address of a command word of the table: zero, and for `REGM` `0xFFFF`. -/
def tableAddr (op : Byte) : Nat :=
  if op.toNat = 0x40 then 0xFFFF else 0

/-- A command word of the table with its operands. -/
def tableCommand (op : Byte) : Command where
  op := op
  dev := tableDev op
  addr := tableAddr op
  data := 0
  arg := tableArg op

/-- The bytes of a word of the table, byte 0 first. -/
def tableBytes (nbits w : Nat) : List Byte :=
  if nbits ≤ 8 then [BitVec.ofNat 8 w] else [BitVec.ofNat 8 (w / 256), BitVec.ofNat 8 w]

/-- Bytes of the table as an encoded instruction: `3E` and `76` begin an instruction of the stream (a missing
immediate is 0), every other single byte is a command code. -/
def tableEncoded : List Byte → Option Encoded
  | [b] =>
    if b = 0x3E then some (.stream [b, 0])
    else if b = 0x76 then some (.stream [b])
    else some (.port (tableCommand b))
  | [b, c] => some (.stream [b, c])
  | _ => none

/-- The instruction the decoder reads from a word of the opcode table. -/
def decodeTableWord (nbits w : Nat) : Option Instr :=
  match tableEncoded (tableBytes nbits w) with
  | some e => (decode e).toOption
  | none => none

end Sys2Proof
end

