-- ==== Sys2Proof/Machine/Target.lean ====
section
/-! DEFINITION. The target interface of spec/43_processor.md R222: `LenStep`, `Decode` and `Exec` of `ILL2` and of an
external target, and the running of an `Exec` on the state. -/

namespace Sys2Proof.Machine

/-- `LenStep` of a target (R98, R99); `fetchLoop` holds its `Unknown(b)` to the last byte fetched (R98). -/
def targetLenStep : TargetId → List Byte → LenAnswer
  | .ill2, l => ill2LenStep l
  | .external n, l => Config.externalLenStep n l

/-- `MAXLEN` of a target (R7 (c)). -/
def targetMaxLen : TargetId → Nat
  | .ill2 => ill2MaxLen
  | .external n => Config.externalMaxLen n

/-- The decoded form of an instruction of the stream (R222). -/
def decodedOf : Instr → Option Decoded
  | .ldiA imm => some (.ldiA imm)
  | .hlt => some .hlt
  | .fetch8 _ | .fetch16 _ | .fetch32 _ | .fetch64 _ => none
  | .store8 _ _ => none
  | .store16 _ _ => none
  | .store32 _ _ => none
  | .store64 _ _ => none
  | .in8 _ | .in16 _ | .in32 _ | .in64 _ => none
  | .out8 _ _ => none
  | .out16 _ _ => none
  | .out32 _ _ => none
  | .out64 _ _ => none
  | .dfetch8 _ _ | .dfetch16 _ _ | .dfetch32 _ _ | .dfetch64 _ _ => none
  | .dstore8 _ _ _ => none
  | .dstore16 _ _ _ => none
  | .dstore32 _ _ _ => none
  | .dstore64 _ _ _ => none
  | .din8 _ _ | .din16 _ _ | .din32 _ _ | .din64 _ _ => none
  | .dout8 _ _ _ => none
  | .dout16 _ _ _ => none
  | .dout32 _ _ _ => none
  | .dout64 _ _ _ => none
  | .regm _ _ _ | .regio _ _ _ => none
  | .dload _ _ => none
  | .rdreg _ => none
  | .wrreg _ _ => none
  | .getregs | .reset | .fetchi | .decodei | .execi | .stopdebug => none
  | .printregs _ => none
  | .setup _ _ => none
  | .setupdebug _ => none
  | .asm _ => none
  | .disasm _ => none
  | .build _ => none
  | .start | .stop | .initthread | .exitthread | .flushthread | .workerstep => none

/-- `Decode` of a target (R7 (d)): total on every list on which `LenStep` answers `Done` (R222 (b)). -/
def targetDecode : TargetId → List Byte → Option Decoded
  | .ill2, l =>
    match decodeStream l with
    | .ok i => decodedOf i
    | .error _ => none
  | .external n, l => some (.external n (Config.externalDecode n l))

/-- `Exec` of `LDI A` (R223): `x[A] <- imm8`, then `Continue`. -/
def ldiATree (imm8 : Byte) : ExecTree := .writeReg .a (imm8.setWidth 64) (.ends .cont)

/-- `Exec` of `HLT` (R224): `Halt`. -/
def hltTree : ExecTree := .ends .halt

/-- `Exec` of a decoded instruction (R7 (e), R222 (c)). -/
def targetExec : Decoded → ExecTree
  | .ldiA imm => ldiATree imm
  | .hlt => hltTree
  | .external n code => Config.externalExec n code

/-- What running an `Exec` gives: the state with its outcome, the state at the access that raised and the condition, a
refusal, or no end (R335). -/
inductive TreeRun where
  | ends (s : State) (o : ExecOutcome)
  | raised (s : State) (c : Condition)
  | refused (r : Refusal)
  | neverEnds
deriving Repr

/-- The Router an access of the Processor goes to: the one `SETUP` gave it (R210, R32). -/
def State.spaceOf (s : State) : Space → Space
  | .mem => s.memRef.getD .mem
  | .io => s.ioRef.getD .io

/-- The accesses of an `Exec`, one after another; the first that raises ends it, and what was written before it remains
(R75, R214, R292). R11 and R151 give the value of a write `8n` bits, and no rule speaks of a wider one: that the bytes of R61
are then stored, the bits above them dropped, is the model's choice (DESIGN CHOICE, notes/assumptions/16.md). -/
def runTree : ExecTree → State → TreeRun
  | .ends o, s => .ends s o
  | .neverEnds, _ => .neverEnds
  | .readReg r k, s =>
    match s.regs.read r with
    | none => .refused .targetContract
    | some v => runTree (k v) s
  | .writeReg r v k, s =>
    match writeRegisterExact s r v with
    | none => .refused .targetContract
    | some s' => runTree k s'
  | .read sp addr w k, s =>
    match routerRead s (s.spaceOf sp) addr w with
    | .ok v => runTree (k v) s
    | .raise c => .raised s c
    | .refuse _ => .refused .targetContract
  | .write sp addr w v k, s =>
    match routerWrite s (s.spaceOf sp) addr w v with
    | .ok s' => runTree k s'
    | .raise c => .raised s c
    | .refuse _ => .refused .targetContract

end Sys2Proof.Machine
end

