-- ==== Sys2Proof/Machine/ProcessorFamily.lean ====
section
/-! DEFINITION. The Processor family: `SETUP`, `RESET`, `FETCHI`, `DECODEI`, `EXECI`, `SETUPDEBUG`, `STOPDEBUG`, `ASM`,
`DISASM`, and the instructions `LDI A` and `HLT` of `ILL2` (spec/43_processor.md). -/

namespace Sys2Proof.Machine

/-! ## The steps of the Processor -/

/-- What a step of the Processor gives the worker (R226): the state it ends in, the state it had reached at a `raise`
and the condition, a refusal, or no end at all. -/
inductive Run where
  | done (s : State)
  | raised (s : State) (c : Condition)
  | refused (r : Refusal)
  | stuck (f : Fault)
deriving Repr

/-- A step of the Processor taken by the worker: a condition it raises becomes the fault halt (R226, R294). -/
def workerOutcome : Run → Host.Outcome State Fault Refusal
  | .done s => .next s
  | .raised s c => .next (takeFault s c)
  | .refused r => .refused r
  | .stuck f => .fault f

/-- One instruction byte read: appended to `ibuf`, and `pc` advanced (R212). -/
def consumeByte (s : State) (b : Byte) : State :=
  { s with ibuf := s.ibuf ++ [b], regs := s.regs.setPc s.regs.pcPlusOne }

/-- The loop of `FETCHI` (R212): one 8-bit read, then `LenStep`; at most as many bytes as the first argument. The byte of
`Unknown` is the last one fetched (R98); a target that names another breaks its contract (notes/assumptions/16.md). -/
def fetchLoop : Nat → State → Run
  | 0, _ => .refused .targetContract
  | n + 1, s =>
    match routerRead s (s.spaceOf .mem) s.regs.pc.toNat .w8 with
    | .refuse r => .refused r
    | .raise c => .raised s c
    | .ok v =>
      let s' := consumeByte s (v.setWidth 8)
      match targetLenStep s'.target s'.ibuf with
      | .done => .done { s' with pstate := .decoding }
      | .more => fetchLoop n s'
      | .unknown b =>
        if b = v.setWidth 8 then .raised s' (.unknownInstruction b) else .refused .targetContract

/-- `FETCHI` (R212). -/
def fetchRun (s : State) : Run :=
  if !s.setupDone then .refused .noSetup
  else
    match s.pstate with
    | .halted => .done s
    | .decoding => .refused .outOfSequence
    | .executing => .refused .outOfSequence
    | .reset => fetchLoop (targetMaxLen s.target) { s with pstate := .fetching, ibuf := [] }
    | .fetching => fetchLoop (targetMaxLen s.target) { s with pstate := .fetching, ibuf := [] }

/-- `DECODEI` (R213). -/
def decodeRun (s : State) : Run :=
  match s.pstate with
  | .halted => .done s
  | .decoding =>
    match targetDecode s.target s.ibuf with
    | some d => .done { s with decoded := some d, pstate := .executing }
    | none => .refused .targetContract
  | .reset => .refused .outOfSequence
  | .fetching => .refused .outOfSequence
  | .executing => .refused .outOfSequence

/-- The Processor moved to `Halted` with a cause; the first cause wins (R30). -/
def haltWith (cause : HaltCause) (s : State) : State :=
  if s.pstate = .halted then s else { s with pstate := .halted, haltCause := cause }

/-- The end of `EXECI` (R214): the instruction is counted, and a Processor that is not halted fetches next. -/
def countInstruction (s : State) : State :=
  { s with
    instrIndex := s.instrIndex + 1
    pstate := if s.pstate = .halted then .halted else .fetching }

/-- The debug callback is consulted (R221): the environment's next answer, or where it has given none the free value. -/
def consultCallback (cb : Nat) (s : State) : CallbackAnswer × State :=
  match s.dbgAnswers with
  | a :: rest => (a, { s with dbgAnswers := rest, dbgCount := s.dbgCount + 1 })
  | [] =>
    (if Config.callbackContinues cb s.instrIndex s.regs.view s.dbgCount then .continues else .stops,
      { s with dbgCount := s.dbgCount + 1 })

/-- The callback step of `EXECI` (R214): it sees the index before its increment and the registers after the
instruction. -/
def callbackStep (s : State) : Run :=
  match s.dbg with
  | none => .done s
  | some cb =>
    match consultCallback cb s with
    | (.continues, s') => .done s'
    | (.stops, s') => .done (haltWith .debugRequested s')
    | (.issuesStart, _) => .refused .callbackStart
    | (.issuesStop, _) => .stuck .callbackDeadlock
    | (.neverReturns, _) => .stuck .callbackNeverReturns

/-- `EXECI` after `Exec` (R214): the instruction is gone, a halting one halts, the callback is consulted, the
instruction is counted. -/
def finishInstruction (o : ExecOutcome) (s : State) : Run :=
  let s1 := { s with ibuf := [], decoded := none }
  let s2 :=
    match o with
    | .halt => haltWith .haltInstruction s1
    | .cont => s1
  match callbackStep s2 with
  | .done s3 => .done (countInstruction s3)
  | .raised s3 c => .raised s3 c
  | .refused r => .refused r
  | .stuck f => .stuck f

/-- `EXECI` from `Exec(decoded)` on (R214), for the `Exec` of one instruction: ignored by a halted Processor (R225),
refused out of sequence. -/
def executeTree (t : ExecTree) (s : State) : Run :=
  match s.pstate with
  | .halted => .done s
  | .executing =>
    match runTree t s with
    | .ends s' o => finishInstruction o s'
    | .raised s' c => .raised s' c
    | .refused r => .refused r
    | .neverEnds => .stuck .execNeverReturns
  | .reset => .refused .outOfSequence
  | .fetching => .refused .outOfSequence
  | .decoding => .refused .outOfSequence

/-- `EXECI` on the instruction `DECODEI` has left in `decoded`. -/
def executeDecoded (s : State) : Run :=
  match s.pstate with
  | .halted => .done s
  | .executing =>
    match s.decoded with
    | some d => executeTree (targetExec d) s
    | none => .refused .outOfSequence
  | .reset => .refused .outOfSequence
  | .fetching => .refused .outOfSequence
  | .decoding => .refused .outOfSequence

/-- `EXECI` (R214): it decodes first where `FETCHI` has just ended. -/
def execRun (s : State) : Run :=
  if s.pstate = .decoding then
    match decodeRun s with
    | .done s' => executeDecoded s'
    | .raised s' c => .raised s' c
    | .refused r => .refused r
    | .stuck f => .stuck f
  else executeDecoded s

/-! ## Commands of the controller -/

/-- The effect of `SETUP` (R210). -/
def setupSpaces (m i : Space) (s : State) : State := { s with memRef := some m, ioRef := some i, setupDone := true }

/-- `SETUP` (R210). -/
def execSetup (m i : Space) (s : State) : Host.Outcome State Fault Refusal :=
  whenQuiet s
    (if m = .mem ∧ i = .io then .next ((setupSpaces m i s).answer .none) else .refused .notTheSpaces)

/-- `RESET` (R211). -/
def execReset (s : State) : Host.Outcome State Fault Refusal :=
  whenQuiet s (.next ((resetProcessor s).answer .none))

/-- `SETUPDEBUG` (R215). -/
def execSetupdebug (callback : Nat) (s : State) : Host.Outcome State Fault Refusal :=
  whenQuiet s (.next ({ s with dbg := some callback }.answer .none))

/-- `STOPDEBUG` (R216). -/
def execStopdebug (s : State) : Host.Outcome State Fault Refusal :=
  whenQuiet s (.next ({ s with dbg := none }.answer .none))

/-- `ASM` (R217), in every phase (R299). -/
def execAsm (text : Text) (s : State) : Host.Outcome State Fault Refusal :=
  match targetAsm s.target text with
  | .bytes l => .next (s.answer (.bytes l))
  | .unknownOpcode t => .next (s.report (.unknownOpcode t))
  | .invalidOperand e a => .next (s.report (.invalidOperand e a))

/-- `DISASM` (R218), in every phase (R299). -/
def execDisasm (bytes : List Byte) (s : State) : Host.Outcome State Fault Refusal :=
  match targetDisasm s.target bytes with
  | .text t => .next (s.answer (.text t))
  | .unknownInstruction b => .next (s.report (.unknownInstruction b))
  | .notOneInstruction => .refused .notOneInstruction

/-! ## Steps of the worker -/

/-- `FETCHI` (R212). -/
def execFetchi (s : State) : Host.Outcome State Fault Refusal := workerOutcome (fetchRun s)

/-- `DECODEI` (R213). -/
def execDecodei (s : State) : Host.Outcome State Fault Refusal := workerOutcome (decodeRun s)

/-- `EXECI` (R214). -/
def execExeci (s : State) : Host.Outcome State Fault Refusal := workerOutcome (execRun s)

/-- `LDI A` (R223), executed by `EXECI` (R214). -/
def execLdiA (imm8 : Byte) (s : State) : Host.Outcome State Fault Refusal :=
  workerOutcome (executeTree (ldiATree imm8) s)

/-- `HLT` (R224), executed by `EXECI` (R214). -/
def execHlt (s : State) : Host.Outcome State Fault Refusal := workerOutcome (executeTree hltTree s)

end Sys2Proof.Machine
end

