-- ==== Sys2Proof/Machine/EngineFamily.lean ====
section
/-! DEFINITION. The Engine family: `BUILD`, `START`, `STOP`, `WORKERSTEP`, `INITTHREAD`, `EXITTHREAD`, `FLUSHTHREAD`
(spec/44_engine.md R250 to R261). -/

namespace Sys2Proof.Machine

/-! ## Construction (R250) -/

/-- The policy of a kind (R6). -/
def policyOf : DeviceKind → Policy
  | .ram => .readWrite
  | .rom => .readOnly
  | .ioPort => .readWrite

/-- The storage of a new Device: `init(d)` (R6). -/
def initialStorage (init : InitBytes) : Memory := Memory.writeSpan { fill := init.fill, cells := [] } 0 init.bytes

/-- A new Device of the layout (R250). Its `base` is read by no rule (R20). -/
def newDevice (c : ConfigEntry) : Device where
  kind := c.kind
  base := c.base
  size := c.size
  policy := policyOf c.kind
  order := c.order
  storage := initialStorage c.init
  loaded := false

/-- A new Device outside the layout (notes/assumptions/9.md). -/
def newSpare (d : DeviceSpec) : Device where
  kind := d.kind
  base := 0
  size := d.size
  policy := policyOf d.kind
  order := d.order
  storage := initialStorage d.init
  loaded := false

/-- The initial contents of a configured Device: by `Load` for a ROM, by direct write for another kind (R250). -/
def loadInitial (c : ConfigEntry) (d : Device) : Except Condition Device :=
  match c.initialContents with
  | none => .ok d
  | some bytes =>
    match d.load bytes with
    | .error cond => .error cond
    | .ok d' => .ok (if c.kind = .rom then { d' with loaded := true } else d')

/-- State with a Device appended. -/
def State.addDevice (s : State) (d : Device) : State := { s with devices := s.devices ++ [d] }

/-- The loop of `BUILD` over the layout (R250): create, load, register; a condition stops it. -/
def buildLoop : List ConfigEntry → State → Access (State × Option Condition)
  | [], s => .ok (s, none)
  | c :: rest, s =>
    match loadInitial c (newDevice c) with
    | .error cond => .ok ({ s.addDevice (newDevice c) with buildFailed := true }, some cond)
    | .ok d =>
      match register (s.addDevice d) c.kind.space s.devices.length c.base c.size with
      | .ok s' => buildLoop rest s'
      | .raise cond => .ok ({ s.addDevice d with buildFailed := true }, some cond)
      | .refuse r => .refuse r

/-- The state in which `BUILD` begins (R250): empty Routers, no Device, `Idle`. -/
def beginBuild (b : BuildArg) (s : State) : State :=
  { s with
    devices := []
    memEntries := []
    ioEntries := []
    awMem := b.awMem
    awIo := b.awIo
    buildFailed := false
    lifecycle := .idle
    dying := false
    blocked := false
    built := true }

/-- `interval = 1 / FREQ_HZ` for a positive `FREQ_HZ` (R38), as numerator and denominator, a form that evaluates. -/
def clockInterval (freqHz : Rat) : Rat := mkRat freqHz.den freqHz.num.toNat

/-- `BUILD` after its loop (R250): the clock, the Peripherals, no callback, `SETUP`, `RESET`; done after a failure
too. -/
def finishBuild (b : BuildArg) (s : State) : State :=
  resetProcessor
    (setupSpaces .mem .io
      { s with
        devices := s.devices ++ b.spares.map newSpare
        interval := clockInterval b.freqHz
        periph := b.peripherals.map fun p => { tick := p.tick, state := p.initial }
        dbg := none
        target := Config.targetIdOf b.target
        regs := RegFile.ofSpec (Config.regSpecOf b.target) })

/-- `BUILD` (R250): once, first (R299); a malformed operand is refused. -/
def execBuild (b : BuildArg) (s : State) : Host.Outcome State Fault Refusal :=
  if s.built then .refused .alreadyBuilt
  else if !b.wf then .refused .malformedConfig
  else
    match buildLoop b.config (beginBuild b s) with
    | .ok (s', none) => .next ((finishBuild b s').answer .none)
    | .ok (s', some c) => .next ((finishBuild b s').report c)
    | .raise c => .next (s.report c)
    | .refuse r => .refused r

/-! ## Start and stop -/

/-- The worker's entry hook, no operation in this spec (R254). -/
def initHook (s : State) : State := s

/-- `START` takes effect (R251): the flag cleared, the worker running, its entry hook performed. -/
def startWorker (s : State) : State := initHook { clearDying s with lifecycle := .running }

/-- `START` (R251): without effect after a failed build, ignored while `Running` or `Stopping`. -/
def execStart (s : State) : Host.Outcome State Fault Refusal :=
  if s.buildFailed then .next (s.answer .none)
  else if s.quiet then .next ((startWorker s).answer .none)
  else .next (s.answer .none)

/-- `STOP` (R252): while `Running` it sets the flag and waits; while `Stopping` it waits; otherwise it returns at
once. The wait is `blocked`; the response comes when the worker has exited. -/
def execStop (s : State) : Host.Outcome State Fault Refusal :=
  match s.lifecycle with
  | .running => .next { setDying s with lifecycle := .stopping, blocked := true }
  | .stopping => .next { s with blocked := true }
  | .idle => .next (s.answer .none)
  | .stopped => .next (s.answer .none)

/-! ## The worker -/

/-- The tick of this Peripheral returns, as R335 requires of it. -/
def Periph.returns (p : Periph) : Bool := p.tick != .neverReturns

/-- `Tick_k` (R260), a function of the Peripheral's own state, for a tick that returns. -/
def tickOne (p : Periph) : Periph :=
  match p.tick with
  | .increment => { p with state := p.state + 1 }
  | .external n => { p with state := Config.externalTick n p.state }
  | .neverReturns => p

/-- State with every Peripheral ticked once (R260). -/
def ticked (s : State) : State := { s with periph := s.periph.map tickOne }

/-- The ticks of one iteration, in list order (R260); the wait that follows them has no effect (R261). A tick that does
not return leaves no further step (R335). -/
def tickAll (s : State) : Run := if s.periph.all Periph.returns then .done (ticked s) else .stuck .tickNeverReturns

/-- The ticks after an `EXECI` that the worker has taken (R253); after a fault halt, where there is no worker any more,
none (R294). -/
def ticksAfter : Host.Outcome State Fault Refusal → Host.Outcome State Fault Refusal
  | .next s => if s.active then workerOutcome (tickAll s) else .next s
  | .fault f => .fault f
  | .refused r => .refused r

/-- The rest of an iteration once `FETCHI` has ended (R253): execute, tick, wait. -/
def completeIteration (s : State) : Host.Outcome State Fault Refusal := ticksAfter (workerOutcome (execRun s))

/-- The body of an iteration (R253): fetch, execute, tick, wait; a condition ends the run. -/
def iteration (s : State) : Host.Outcome State Fault Refusal :=
  match fetchRun s with
  | .raised s' c => .next (takeFault s' c)
  | .refused r => .refused r
  | .stuck f => .fault f
  | .done s' => completeIteration s'

/-- `WORKERSTEP` (R253): taken while there is a worker; the boundary test stands before the body. An instruction that is
in flight, because its `FETCHI` was scheduled singly, is completed first, whatever the dying flag (R35, R258). -/
def execWorkerstep (s : State) : Host.Outcome State Fault Refusal :=
  if !s.active then .refused .noWorker
  else if s.inFlight then completeIteration s
  else if exitsAtBoundary s then .next (workerExit s)
  else iteration s

/-- `INITTHREAD` (R254): no operation. -/
def execInitthread (s : State) : Host.Outcome State Fault Refusal := .next (initHook s)

/-- `EXITTHREAD` (R255): no operation. -/
def execExitthread (s : State) : Host.Outcome State Fault Refusal := .next s

/-- `FLUSHTHREAD` (R256): no operation. -/
def execFlushthread (s : State) : Host.Outcome State Fault Refusal := .next s

end Sys2Proof.Machine
end

