-- ==== Sys2Proof/Machine/RegisterFamily.lean ====
section
/-! DEFINITION. The register file family: `RDREG`, `WRREG`, `GETREGS`, `PRINTREGS` (spec/42_regfile.md R194 to R197). -/

namespace Sys2Proof.Machine

/-- `x[name]` with its width, the value of `RDREG` (R194). -/
def readRegister (s : State) (name : RegName) : Access RespValue :=
  match s.regs.width? name, s.regs.read name with
  | some w, some v => .ok (.data w v)
  | _, _ => .refuse .noSuchRegister

/-- `RDREG` (R194). -/
def execRdreg (name : RegName) (s : State) : Host.Outcome State Fault Refusal :=
  whenQuiet s
    (match readRegister s name with
    | .ok v => .next (s.answer v)
    | .raise c => .next (s.report c)
    | .refuse r => .refused r)

/-- `WRREG` (R195). -/
def execWrreg (name : RegName) (data : Word) (s : State) : Host.Outcome State Fault Refusal :=
  whenQuiet s (answerWrite s (writeRegisterSlice s name data))

/-- `GETREGS` (R196). -/
def execGetregs (s : State) : Host.Outcome State Fault Refusal :=
  whenQuiet s (.next (s.answer (.registers s.regs.view)))

/-- `PRINTREGS` (R197): the text is a free value, written to the stream; no other effect. -/
def execPrintregs (stream : Nat) (s : State) : Host.Outcome State Fault Refusal :=
  whenQuiet s (.next (s.answer (.printed stream (Config.registerText s.regs.view))))

end Sys2Proof.Machine
end

