-- ==== Sys2Proof/Machine/RouterFamily.lean ====
section
/-! DEFINITION. The Router family: `FETCHw`, `STOREw`, `INw`, `OUTw`, `REGM`, `REGIO` (spec/41_router.md R152 to R169). Each
is a command of the controller, refused while the worker owns the block (R299); a condition is its response (R295). -/

namespace Sys2Proof.Machine

/-- A Router read at the port (R151). -/
def routerReadCommand (sp : Space) (w : Width) (addr : Nat) (s : State) : Host.Outcome State Fault Refusal :=
  whenQuiet s (answerRead s w (routerRead s sp addr w))

/-- A Router write at the port (R151). -/
def routerWriteCommand (sp : Space) (w : Width) (addr : Nat) (v : Word) (s : State) :
    Host.Outcome State Fault Refusal :=
  whenQuiet s (answerWrite s (routerWrite s sp addr w v))

/-- `FETCH8` (R154). -/
def execFetch8 (addr : Nat) (s : State) : Host.Outcome State Fault Refusal := routerReadCommand .mem .w8 addr s

/-- `FETCH16` (R155). -/
def execFetch16 (addr : Nat) (s : State) : Host.Outcome State Fault Refusal := routerReadCommand .mem .w16 addr s

/-- `FETCH32` (R156). -/
def execFetch32 (addr : Nat) (s : State) : Host.Outcome State Fault Refusal := routerReadCommand .mem .w32 addr s

/-- `FETCH64` (R157). -/
def execFetch64 (addr : Nat) (s : State) : Host.Outcome State Fault Refusal := routerReadCommand .mem .w64 addr s

/-- `STORE8` (R158). -/
def execStore8 (addr : Nat) (data : BitVec 8) (s : State) : Host.Outcome State Fault Refusal :=
  routerWriteCommand .mem .w8 addr (data.setWidth 64) s

/-- `STORE16` (R159). -/
def execStore16 (addr : Nat) (data : BitVec 16) (s : State) : Host.Outcome State Fault Refusal :=
  routerWriteCommand .mem .w16 addr (data.setWidth 64) s

/-- `STORE32` (R160). -/
def execStore32 (addr : Nat) (data : BitVec 32) (s : State) : Host.Outcome State Fault Refusal :=
  routerWriteCommand .mem .w32 addr (data.setWidth 64) s

/-- `STORE64` (R161). -/
def execStore64 (addr : Nat) (data : BitVec 64) (s : State) : Host.Outcome State Fault Refusal :=
  routerWriteCommand .mem .w64 addr data s

/-- `IN8` (R162). -/
def execIn8 (addr : Nat) (s : State) : Host.Outcome State Fault Refusal := routerReadCommand .io .w8 addr s

/-- `IN16` (R163). -/
def execIn16 (addr : Nat) (s : State) : Host.Outcome State Fault Refusal := routerReadCommand .io .w16 addr s

/-- `IN32` (R164). -/
def execIn32 (addr : Nat) (s : State) : Host.Outcome State Fault Refusal := routerReadCommand .io .w32 addr s

/-- `IN64` (R165). -/
def execIn64 (addr : Nat) (s : State) : Host.Outcome State Fault Refusal := routerReadCommand .io .w64 addr s

/-- `OUT8` (R166). -/
def execOut8 (addr : Nat) (data : BitVec 8) (s : State) : Host.Outcome State Fault Refusal :=
  routerWriteCommand .io .w8 addr (data.setWidth 64) s

/-- `OUT16` (R167). -/
def execOut16 (addr : Nat) (data : BitVec 16) (s : State) : Host.Outcome State Fault Refusal :=
  routerWriteCommand .io .w16 addr (data.setWidth 64) s

/-- `OUT32` (R168). -/
def execOut32 (addr : Nat) (data : BitVec 32) (s : State) : Host.Outcome State Fault Refusal :=
  routerWriteCommand .io .w32 addr (data.setWidth 64) s

/-- `OUT64` (R169). -/
def execOut64 (addr : Nat) (data : BitVec 64) (s : State) : Host.Outcome State Fault Refusal :=
  routerWriteCommand .io .w64 addr data s

/-- `REGM` (R152). -/
def execRegm (dev base size : Nat) (s : State) : Host.Outcome State Fault Refusal :=
  answerWrite s (register s .mem dev base size)

/-- `REGIO` (R153). -/
def execRegio (dev base size : Nat) (s : State) : Host.Outcome State Fault Refusal :=
  answerWrite s (register s .io dev base size)

end Sys2Proof.Machine
end

