-- ==== Sys2Proof/Machine/Dispatch.lean ====
section
/-! DEFINITION. The meaning of every instruction: one arm per constructor of `Instr`, one direct call each. -/

namespace Sys2Proof.Machine

/-- One instruction on a state. -/
def exec (i : Instr) (s : State) : Host.Outcome State Fault Refusal :=
  match i with
  | .fetch8 addr => Sys2Proof.Machine.execFetch8 addr s
  | .fetch16 addr => Sys2Proof.Machine.execFetch16 addr s
  | .fetch32 addr => Sys2Proof.Machine.execFetch32 addr s
  | .fetch64 addr => Sys2Proof.Machine.execFetch64 addr s
  | .store8 addr data => Sys2Proof.Machine.execStore8 addr data s
  | .store16 addr data => Sys2Proof.Machine.execStore16 addr data s
  | .store32 addr data => Sys2Proof.Machine.execStore32 addr data s
  | .store64 addr data => Sys2Proof.Machine.execStore64 addr data s
  | .in8 addr => Sys2Proof.Machine.execIn8 addr s
  | .in16 addr => Sys2Proof.Machine.execIn16 addr s
  | .in32 addr => Sys2Proof.Machine.execIn32 addr s
  | .in64 addr => Sys2Proof.Machine.execIn64 addr s
  | .out8 addr data => Sys2Proof.Machine.execOut8 addr data s
  | .out16 addr data => Sys2Proof.Machine.execOut16 addr data s
  | .out32 addr data => Sys2Proof.Machine.execOut32 addr data s
  | .out64 addr data => Sys2Proof.Machine.execOut64 addr data s
  | .dfetch8 dev off => Sys2Proof.Machine.execDfetch8 dev off s
  | .dfetch16 dev off => Sys2Proof.Machine.execDfetch16 dev off s
  | .dfetch32 dev off => Sys2Proof.Machine.execDfetch32 dev off s
  | .dfetch64 dev off => Sys2Proof.Machine.execDfetch64 dev off s
  | .dstore8 dev off data => Sys2Proof.Machine.execDstore8 dev off data s
  | .dstore16 dev off data => Sys2Proof.Machine.execDstore16 dev off data s
  | .dstore32 dev off data => Sys2Proof.Machine.execDstore32 dev off data s
  | .dstore64 dev off data => Sys2Proof.Machine.execDstore64 dev off data s
  | .din8 dev off => Sys2Proof.Machine.execDin8 dev off s
  | .din16 dev off => Sys2Proof.Machine.execDin16 dev off s
  | .din32 dev off => Sys2Proof.Machine.execDin32 dev off s
  | .din64 dev off => Sys2Proof.Machine.execDin64 dev off s
  | .dout8 dev off data => Sys2Proof.Machine.execDout8 dev off data s
  | .dout16 dev off data => Sys2Proof.Machine.execDout16 dev off data s
  | .dout32 dev off data => Sys2Proof.Machine.execDout32 dev off data s
  | .dout64 dev off data => Sys2Proof.Machine.execDout64 dev off data s
  | .regm dev base size => Sys2Proof.Machine.execRegm dev base size s
  | .regio dev base size => Sys2Proof.Machine.execRegio dev base size s
  | .dload dev bytes => Sys2Proof.Machine.execDload dev bytes s
  | .rdreg name => Sys2Proof.Machine.execRdreg name s
  | .wrreg name data => Sys2Proof.Machine.execWrreg name data s
  | .getregs => Sys2Proof.Machine.execGetregs s
  | .printregs stream => Sys2Proof.Machine.execPrintregs stream s
  | .setup m p => Sys2Proof.Machine.execSetup m p s
  | .reset => Sys2Proof.Machine.execReset s
  | .fetchi => Sys2Proof.Machine.execFetchi s
  | .decodei => Sys2Proof.Machine.execDecodei s
  | .execi => Sys2Proof.Machine.execExeci s
  | .setupdebug callback => Sys2Proof.Machine.execSetupdebug callback s
  | .stopdebug => Sys2Proof.Machine.execStopdebug s
  | .asm text => Sys2Proof.Machine.execAsm text s
  | .disasm bytes => Sys2Proof.Machine.execDisasm bytes s
  | .build arg => Sys2Proof.Machine.execBuild arg s
  | .start => Sys2Proof.Machine.execStart s
  | .stop => Sys2Proof.Machine.execStop s
  | .initthread => Sys2Proof.Machine.execInitthread s
  | .exitthread => Sys2Proof.Machine.execExitthread s
  | .flushthread => Sys2Proof.Machine.execFlushthread s
  | .workerstep => Sys2Proof.Machine.execWorkerstep s
  | .ldiA imm8 => Sys2Proof.Machine.execLdiA imm8 s
  | .hlt => Sys2Proof.Machine.execHlt s

end Sys2Proof.Machine
end

