-- ==== Sys2Proof/Machine/Turn.lean ====
section
/-! DEFINITION. Which agent acts next and with which instruction (spec/00_scope.md R15, 60_exceptions.md R299), and how an
instruction is placed where the next step takes it. -/

namespace Sys2Proof.Machine

/-- The steps only the worker takes (R93, R299). -/
def workerOnly : Instr → Bool
  | .fetchi | .decodei | .execi | .initthread | .exitthread | .flushthread | .workerstep => true
  | .fetch8 _ | .fetch16 _ | .fetch32 _ | .fetch64 _ => false
  | .store8 _ _ => false
  | .store16 _ _ => false
  | .store32 _ _ => false
  | .store64 _ _ => false
  | .in8 _ | .in16 _ | .in32 _ | .in64 _ => false
  | .out8 _ _ => false
  | .out16 _ _ => false
  | .out32 _ _ => false
  | .out64 _ _ => false
  | .dfetch8 _ _ | .dfetch16 _ _ | .dfetch32 _ _ | .dfetch64 _ _ => false
  | .dstore8 _ _ _ => false
  | .dstore16 _ _ _ => false
  | .dstore32 _ _ _ => false
  | .dstore64 _ _ _ => false
  | .din8 _ _ | .din16 _ _ | .din32 _ _ | .din64 _ _ => false
  | .dout8 _ _ _ => false
  | .dout16 _ _ _ => false
  | .dout32 _ _ _ => false
  | .dout64 _ _ _ => false
  | .regm _ _ _ | .regio _ _ _ => false
  | .dload _ _ => false
  | .rdreg _ => false
  | .wrreg _ _ => false
  | .getregs | .reset | .stopdebug | .start | .stop | .hlt => false
  | .printregs _ => false
  | .setup _ _ => false
  | .setupdebug _ => false
  | .asm _ => false
  | .disasm _ => false
  | .build _ => false
  | .ldiA _ => false

/-- A command code that is `BUILD`'s (R93). -/
def isBuildOp (op : Byte) : Bool := op == 0xD0

/-- The refusal of a command that decodes to no instruction (R94). -/
def refusalOf (op : Byte) : DecodeError → Refusal
  | .reservedOp b => .reservedCommand b
  | .badOperand b => .badOperand b
  | .incomplete => .reservedCommand op
  | .unknownOpcode _ => .reservedCommand op
  | .trailingBytes => .reservedCommand op

/-- What the next step does: nothing, one instruction on a state, one after which the ticks of its iteration follow, or
a refusal. -/
inductive Turn where
  | idle
  | run (i : Instr) (s : State)
  | runThenTick (i : Instr) (s : State)
  | refuse (r : Refusal)
deriving Repr

/-- State with the rest of its schedule. -/
def State.withPort (s : State) (rest : List PortEntry) : State := { s with port := rest }

/-- A part of an iteration that the worker takes by itself (notes/assumptions/6.md). `FETCHI` begins an instruction, so
the test of the dying flag of R253 stands before it, and a worker that is asked to stop exits; a `FETCHI` of a halted
Processor begins none and is ignored, as `DECODEI` and `EXECI` are (R225). `EXECI` of the instruction in flight ends the
iteration, so the ticks follow it. -/
def workerPart (i : Instr) (s : State) : Turn :=
  if i = .fetchi ∧ stopsAtBoundary s = true then .run .workerstep s
  else if i = .execi ∧ s.inFlight = true then .runThenTick i s
  else .run i s

/-- A turn of the worker with a scheduled step (R299): one of its own steps, while there is a worker. -/
def workerTurn (c : Command) (s : State) : Turn :=
  match decodeCommand c with
  | .error e => .refuse (refusalOf c.op e)
  | .ok i =>
    if !workerOnly i then .refuse .neverWorker
    else if s.active then workerPart i s
    else .refuse .noWorker

/-- A turn of the controller with a scheduled command (R299): never a step of the worker, and nothing before the first
`BUILD`. -/
def controllerTurn (c : Command) (s : State) : Turn :=
  match decodeCommand c with
  | .error e => .refuse (refusalOf c.op e)
  | .ok i =>
    if workerOnly i then .refuse .workerOnly
    else if !s.built && !isBuildOp c.op then .refuse .notBuilt
    else .run i s

/-- The next turn (notes/assumptions/6.md): the schedule's next entry; but while the controller waits in `STOP` (R252),
or where nothing is scheduled, the worker takes an iteration of its loop if there is a worker. -/
def nextTurn (s : State) : Turn :=
  match s.port with
  | [] => if s.active then .run .workerstep s else .idle
  | e :: rest =>
    match e.agent with
    | .worker => workerTurn e.cmd (s.withPort rest)
    | .controller => if s.blocked then .run .workerstep s else controllerTurn e.cmd (s.withPort rest)

/-! ## Placing an instruction (notes/assumptions/11.md) -/

/-- Byte `b` placed in the storage that owns address `addr` of `MEM`, whatever its policy. -/
def pokeByte (addr : Nat) (b : Byte) (s : State) : State :=
  match route s .mem addr .w8 with
  | .ok t => s.setDevice t.dev { t.device with storage := t.device.storage.write t.off b }
  | .raise _ => s
  | .refuse _ => s

/-- Bytes placed at ascending fetch addresses from `addr` on. -/
def pokeBytes (bits : Nat) : Nat → List Byte → State → State
  | _, [], s => s
  | addr, b :: rest, s => pokeBytes bits ((addr + 1) % 2 ^ bits) rest (pokeByte addr b s)

/-- A state in which the worker takes the next step: a worker that is not to exit, and nothing scheduled before it. -/
def readyWorker (s : State) : State :=
  { s with lifecycle := .running, dying := false, blocked := false, port := [] }

/-- A state in which the Processor fetches next. -/
def readyToFetch (s : State) : State :=
  match s.pstate with
  | .reset => s
  | .fetching => s
  | .decoding => { s with pstate := .fetching }
  | .executing => { s with pstate := .fetching }
  | .halted => { s with pstate := .fetching, haltCause := .none, fault := none }

/-- The bytes of an instruction of the stream placed at the program counter, the worker about to fetch them. -/
def placeStream (bytes : List Byte) (s : State) : State :=
  let s' := readyToFetch (readyWorker s)
  pokeBytes s'.regs.pcBits s'.regs.pc.toNat bytes s'

/-- The bytes of an instruction of the stream, zeros after it up to the longest instruction. -/
def padStream (bytes : List Byte) : List Byte := bytes ++ List.replicate (ill2MaxLen - bytes.length) 0

/-- A Device in no Router, for a command word that names one. -/
def spareRom : Device where
  kind := .rom
  base := 0
  size := 1
  policy := .readOnly
  order := .little
  storage := { fill := 0, cells := [] }
  loaded := false

/-- A worker's step scheduled: for `DECODEI` and `EXECI`, which come after a fetch, the fetch is done first. -/
def placeWorkerStep (i : Instr) (c : Command) (s : State) : State :=
  let s' := readyWorker s
  let ready :=
    if i = .decodei ∨ i = .execi then
      match fetchRun s' with
      | .done s'' => s''
      | .raised _ _ => s'
      | .refused _ => s'
      | .stuck _ => s'
    else s'
  { ready with port := [{ agent := .worker, cmd := c }] }

/-- A controller's command scheduled; for a command whose `dev` names a Device the block does not have, spare Devices
are there; for `BUILD` the block is not yet built. -/
def placeCommand (c : Command) (s : State) : State :=
  { s with
    port := [{ agent := .controller, cmd := c }]
    blocked := false
    built := !isBuildOp c.op
    devices := s.devices ++ List.replicate (tableDev c.op + 1 - s.devices.length) spareRom }

/-- An encoded instruction placed where the next step takes it. -/
def placeEncoded (e : Encoded) (s : State) : State :=
  match e with
  | .stream bytes => placeStream (padStream bytes) s
  | .port c =>
    match decodeCommand c with
    | .ok i => if workerOnly i then placeWorkerStep i c s else placeCommand c s
    | .error _ => placeCommand c s

end Sys2Proof.Machine
end

