-- ==== Sys2Proof/Machine/Step.lean ====
section
/-! DEFINITION. One step of the machine: the next turn's instruction, run, with the ticks where it ends an iteration. -/

namespace Sys2Proof.Machine

/-- One step: the agent whose turn it is takes it; with nothing scheduled and no worker the block waits. -/
def step (s : State) : Host.Outcome State Fault Refusal :=
  match nextTurn s with
  | .idle => .next s
  | .refuse r => .refused r
  | .run i s' => exec i s'
  | .runThenTick i s' => ticksAfter (exec i s')

/-- The state in which the next step runs the instruction of a word of the opcode table (notes/assumptions/11.md). -/
def State.withFetchWord (s : State) (nbits w : Nat) : State :=
  match tableEncoded (tableBytes nbits w) with
  | some e => placeEncoded e s
  | none => s

end Sys2Proof.Machine
end

