-- ==== Sys2Proof/Safety.lean ====
section
/-! DEFINITION. What a sound state of the block is: the invariants the spec states of Devices, Routers, the register file,
the Processor and the Engine, in the terms the statements use. -/

namespace Sys2Proof.Machine

/-- Every Device's storage is in canonical form, and holds no byte at or beyond the Device's size (R20, R21). -/
abbrev State.storagesCanonical (s : State) : Prop :=
  ∀ d ∈ s.devices, d.storage.wf ∧ ∀ c ∈ d.storage.cells, c.1 < d.size

/-- A Device's policy is its kind's: ROM is `ReadOnly`, RAM and IOPort are `ReadWrite` (R6). -/
abbrev State.policiesFit (s : State) : Prop :=
  ∀ d ∈ s.devices, d.policy = policyOf d.kind

/-- Two entries own no address in common (R22). -/
abbrev RouterEntry.disjoint (e e' : RouterEntry) : Prop :=
  e.base + e.size ≤ e'.base ∨ e'.base + e'.size ≤ e.base

/-- An entry of a Router is not empty and lies in its space (R22). -/
abbrev RouterEntry.inSpace (aw : Nat) (e : RouterEntry) : Prop :=
  1 ≤ e.size ∧ e.base + e.size ≤ 2 ^ aw

/-- The Router invariant (R22): in each Router the entries are pairwise disjoint, not empty and inside the space; every
entry names a Device, and a Device is in at most one entry of at most one Router. -/
abbrev State.routersSound (s : State) : Prop :=
  (s.memEntries.Pairwise RouterEntry.disjoint ∧ s.ioEntries.Pairwise RouterEntry.disjoint) ∧
  (∀ e ∈ s.memEntries, e.inSpace s.awMem) ∧ (∀ e ∈ s.ioEntries, e.inSpace s.awIo) ∧
  (∀ e ∈ s.memEntries ++ s.ioEntries, e.dev < s.devices.length) ∧
  ((s.memEntries ++ s.ioEntries).map RouterEntry.dev).Nodup

/-- The storage registers have distinct names, and each holds a value, and has a reset value, of its width (R24, R190,
R193). -/
abbrev State.registersFit (s : State) : Prop :=
  (s.regs.cells.map RegCell.name).Nodup ∧
  ∀ c ∈ s.regs.cells, c.val.toNat < 2 ^ c.width.bits ∧ c.reset.toNat < 2 ^ c.width.bits

/-- `halt_cause` is `None` exactly when the Processor is not halted (R30), and the fault record is valid exactly when the
cause is `Fault` (R31). -/
abbrev State.haltRecorded (s : State) : Prop :=
  (s.haltCause = .none ↔ s.pstate ≠ .halted) ∧ (s.fault.isSome = true ↔ s.haltCause = .fault)

/-- What the Engine's bits say of each other: the controller waits in `STOP` only while `Stopping` (R252), `Stopping` has
the dying flag set (R252), `Running` has it clear (R251), and after a failed build the Engine stays `Idle` (R296). -/
abbrev State.engineSound (s : State) : Prop :=
  (s.blocked = true → s.lifecycle = .stopping) ∧ (s.lifecycle = .stopping → s.dying = true) ∧
  (s.lifecycle = .running → s.dying = false) ∧ (s.buildFailed = true → s.lifecycle = .idle)

/-- What stands in `decoded` is an answer of `Decode` of the block's own target (R41, R213, R222). -/
def State.decodedByTarget (s : State) : Prop :=
  ∀ d, s.decoded = some d → ∃ bytes, targetDecode s.target bytes = some d

/-- The sequencer's bookkeeping: a set-up Processor has the two spaces of the block (R32, R210), in `Executing` there is a
decoded instruction (R41, R213), a decoded instruction is one of the block's target (R222), and an instruction is in flight
only while there is a worker: no run ends inside one (R258). -/
abbrev State.sequencerSound (s : State) : Prop :=
  (s.setupDone = true → s.memRef = some .mem ∧ s.ioRef = some .io) ∧
  (s.pstate = .executing → s.decoded.isSome = true) ∧ s.decodedByTarget ∧ (s.inFlight = true → s.active = true)

/-- A sound state. -/
structure State.Inv (s : State) : Prop where
  storages : s.storagesCanonical
  policies : s.policiesFit
  routers : s.routersSound
  registers : s.registersFit
  halt : s.haltRecorded
  engine : s.engineSound
  sequencer : s.sequencerSound

/-- A run of the worker that ended safely: it ended, and not by a fault halt (R259, R294). -/
def State.endedWithoutFault (s : State) : Bool :=
  match s.stopReport with
  | none => false
  | some (.faultHalt _) => false
  | some .debugHalt => true
  | some .instructionHalt => true
  | some .stopRequested => true

/-! ## The terms of the statements -/

/-- The value of `n` bytes, `b 0` the one at the lowest offset, in a Device's order, as R61 sums it. -/
def accessValue (order : ByteOrder) (n : Nat) (b : Nat → Byte) : Nat :=
  match order with
  | .little => ∑ i ∈ Finset.range n, (b i).toNat * 256 ^ i
  | .big => ∑ i ∈ Finset.range n, (b i).toNat * 256 ^ (n - 1 - i)

/-- Byte `i` of a written value of `n` bytes, as R61 slices it: `v[8i + 7 : 8i]` or `v[8(n − 1 − i) + 7 : 8(n − 1 − i)]`. -/
def accessByte (order : ByteOrder) (n i : Nat) (v : Word) : Byte :=
  match order with
  | .little => v.extractLsb' (8 * i) 8
  | .big => v.extractLsb' (8 * (n - 1 - i)) 8

/-- An outcome with a function of its next state. -/
def mapNext (f : State → State) : Host.Outcome State Fault Refusal → Host.Outcome State Fault Refusal
  | .next s => .next (f s)
  | .fault r => .fault r
  | .refused r => .refused r

/-- The command codes of R92 and R93; every other code is reserved (R94). -/
def listedCodes : List Byte :=
  [0x00, 0x01, 0x02, 0x03, 0x04, 0x05, 0x06, 0x07, 0x10, 0x11, 0x12, 0x13, 0x14, 0x15, 0x16, 0x17] ++
  [0x20, 0x21, 0x22, 0x23, 0x24, 0x25, 0x26, 0x27, 0x30, 0x31, 0x32, 0x33, 0x34, 0x35, 0x36, 0x37] ++
  [0x40, 0x41, 0x50, 0x80, 0x81, 0x82, 0x83] ++
  [0xC0, 0xC1, 0xC2, 0xC3, 0xC4, 0xC5, 0xC6, 0xC7, 0xC8, 0xD0, 0xD1, 0xD2, 0xD3, 0xD4, 0xD5, 0xD6]

/-- `REGM` or `REGIO`, by the Router (R152, R153). -/
def registration : Space → Nat → Nat → Nat → Instr
  | .mem, dev, base, size => .regm dev base size
  | .io, dev, base, size => .regio dev base size

/-- The fetch address `k` bytes after the program counter, modulo `2^PCW` (R28). -/
def State.fetchAddress (s : State) (k : Nat) : Nat := (s.regs.pc.toNat + k) % 2 ^ s.regs.pcBits

/-- The 8-bit reads at the fetch addresses of the program counter and after it give these bytes (R212). -/
def State.holdsAtPc (s : State) (bytes : List Byte) : Prop :=
  ∀ k b, bytes[k]? = some b → routerRead s .mem (s.fetchAddress k) .w8 = .ok (b.setWidth 64)

/-- The state in which `FETCHI` has read these bytes: they stand in `ibuf`, and the program counter is past them (R212). -/
def State.consumed (s : State) (bytes : List Byte) (p : PState) : State :=
  { s with
    ibuf := bytes
    regs := s.regs.setPc (BitVec.ofNat 64 (s.fetchAddress bytes.length))
    pstate := p }

/-- A Processor about to fetch an instruction (R212, R220): set up, in `Reset` or `Fetching`, from the block's memory. -/
def State.canFetch (s : State) : Prop :=
  s.setupDone = true ∧ (s.pstate = .reset ∨ s.pstate = .fetching) ∧ s.memRef = some .mem

/-- The fault halt of a condition raised in this state (R294): the condition is the fault record, the Processor is halted by
a fault, and the run has ended; a controller that waits in `STOP` has its response (R252, R257; the wait is
notes/assumptions/6.md). -/
def State.faultHalted (s : State) (c : Condition) : State :=
  { s with
    pstate := .halted
    haltCause := .fault
    fault := some c
    lifecycle := .stopped
    blocked := false
    response := if s.blocked = true then { cond := none, value := .none } else s.response }

/-- The state in which `EXECI` ends (R214), from the state its `Exec` has left: `stop` says that the callback answered
false; `answers` and `count` are the environment's answers and the count of questions then. -/
def State.executed (s : State) (o : ExecOutcome) (stop : Bool) (answers : List CallbackAnswer) (count : Nat) : State :=
  { s with
    ibuf := []
    decoded := none
    instrIndex := s.instrIndex + 1
    pstate := if o = .halt ∨ stop = true then .halted else .fetching
    haltCause := if o = .halt then .haltInstruction else if stop = true then .debugRequested else s.haltCause
    dbgAnswers := answers
    dbgCount := count }

/-- The bytes a Device of the layout holds at offset `j` after `BUILD` (R321): the initial contents, over `init`. -/
def layoutByte (c : ConfigEntry) (j : Nat) : Byte :=
  ((c.initialContents.getD [])[j]?).getD ((c.init.bytes[j]?).getD c.init.fill)

/-- The initial contents of an element fit its Device (R138, R250). -/
abbrev contentsFit (c : ConfigEntry) : Prop := (c.initialContents.getD []).length ≤ c.size

/-- Two elements of a layout that go to one Router do not overlap (R22, R250). -/
abbrev compatibleElements (c c' : ConfigEntry) : Prop :=
  c.kind.space = c'.kind.space → c.base + c.size ≤ c'.base ∨ c'.base + c'.size ≤ c.base

/-- The entries of the layout that go to a Router, each with its Device's number (R250). -/
def layoutEntries (config : List ConfigEntry) (sp : Space) : List RouterEntry :=
  (config.zipIdx.filter fun p => p.1.kind.space = sp).map fun p => { dev := p.2, base := p.1.base, size := p.1.size }

/-- Device `k` is the one `BUILD` makes of an element of the layout (R6, R20, R250, R321). -/
def State.holdsElement (t : State) (k : Nat) (c : ConfigEntry) : Prop :=
  ∃ d, t.devices[k]? = some d ∧ d.kind = c.kind ∧ d.base = c.base ∧ d.size = c.size ∧ d.order = c.order ∧
    d.policy = (if c.kind = .rom then .readOnly else .readWrite) ∧
    d.loaded = (decide (c.kind = .rom) && c.initialContents.isSome) ∧ ∀ j, d.storage.read j = layoutByte c j

/-- The block `t` that `BUILD` of `b` leaves of `s` when its loop has gone through the elements `config` (R250, R321): their
Devices and Router entries in list order, every register of the schema at its reset value, and the rest of the state as
R321 lists it; the model's own fields stay. -/
structure State.BuiltFrom (s t : State) (b : BuildArg) (config : List ConfigEntry) : Prop where
  elements : ∀ k c, config[k]? = some c → t.holdsElement k c
  memEntries : t.memEntries = layoutEntries config .mem
  ioEntries : t.ioEntries = layoutEntries config .io
  widths : t.awMem = b.awMem ∧ t.awIo = b.awIo
  target : t.target = Config.targetIdOf b.target
  regs : t.regs = RegFile.ofSpec (Config.regSpecOf b.target)
  storageRegisters : ∀ n w v, RegDecl.storage n w v ∈ (Config.regSpecOf b.target).decls →
    t.regs.cell? n = some { name := n, width := w, reset := v, val := v }
  halfRegisters : ∀ n q p, RegDecl.half n q p ∈ (Config.regSpecOf b.target).decls →
    t.regs.half? n = some { name := n, parent := q, part := p }
  pcName : t.regs.pcName = (Config.regSpecOf b.target).pcName
  processor : t.pstate = .reset ∧ t.haltCause = .none ∧ t.fault = none ∧ t.instrIndex = 0 ∧ t.ibuf = [] ∧ t.decoded = none
  setup : t.setupDone = true ∧ t.memRef = some .mem ∧ t.ioRef = some .io
  callback : t.dbg = none
  engine : t.lifecycle = .idle ∧ t.dying = false ∧ t.blocked = false ∧ t.built = true
  interval : t.interval = 1 / b.freqHz
  periph : t.periph = b.peripherals.map fun p => { tick := p.tick, state := p.initial }
  environment : t.port = s.port ∧ t.dbgAnswers = s.dbgAnswers ∧ t.dbgCount = s.dbgCount

/-- A Device in `t` that has kept everything but its storage, its base and its `loaded` bit (R20). -/
abbrev Device.sameShape (d d' : Device) : Prop :=
  d'.kind = d.kind ∧ d'.size = d.size ∧ d'.policy = d.policy ∧ d'.order = d.order

end Sys2Proof.Machine
end

