-- ==== Sys2Proof/Certificates/Slice0/Obligations.lean ====
section
/-! DEFINITION. The statements for the provers, each with the numbered rule of spec/ it rests on. A statement whose
docstring names an entry of notes/assumptions rests on a choice of the model. -/

open Sys2Proof Sys2Proof.Machine

/-! ## Encodings -/

/-- R92, R93, R96: decoding the encoding of an instruction gives the instruction, with every operand. -/
def Obligations.DecodeEncodeAgree : Prop :=
  ∀ i : Instr, decode (encode i) = .ok i

/-- R91 to R96: an accepted command is an instruction whose own code is the command's, and an accepted byte list is
exactly the encoding of its instruction. That a command with an operand it does not take is accepted, and one with an `arg`
of another kind is not, is the model's choice (notes/assumptions/20.md). -/
def Obligations.AcceptedEncodingsAreTheirOwn : Prop :=
  (∀ (c : Command) (i : Instr), decodeCommand c = .ok i → ∃ c' : Command, encode i = .port c' ∧ c'.op = c.op) ∧
  ∀ (bytes : List Byte) (i : Instr), decodeStream bytes = .ok i ↔ encode i = .stream bytes

/-- R94: a command of a code that is not listed is refused, by whichever agent it is issued. -/
def Obligations.ReservedCodesAreRefused : Prop :=
  ∀ (s : State) (agent : Agent) (c : Command) (rest : List PortEntry),
    s.port = ⟨agent, c⟩ :: rest → (agent = .controller → s.blocked = false) → c.op ∉ listedCodes →
    step s = .refused (.reservedCommand c.op)

/-- R91 to R93, R96: words written out from the spec's encodings decode to the instructions they stand for. -/
def Obligations.DecodedWords : Prop :=
  decode (.port ⟨0b00000101, 0, 0x0FFE, 0x1234, .none⟩) = .ok (.store16 0x0FFE 0x1234) ∧
  decode (.port ⟨0b00010011, 0, 0x20, 0, .none⟩) = .ok (.in64 0x20) ∧
  decode (.port ⟨0b00100101, 1, 3, 0x1234, .none⟩) = .ok (.dstore16 1 3 0x1234) ∧
  decode (.port ⟨0b00110010, 1, 3, 0, .none⟩) = .ok (.din32 1 3) ∧
  decode (.port ⟨0b01010000, 2, 0x10, 0, .size 4⟩) = .ok (.regio 2 0x10 4) ∧
  decode (.port ⟨0b10000001, 0, 0, 0xFF, .reg .wl⟩) = .ok (.wrreg .wl 0xFF) ∧
  decode (.port ⟨0b11000001, 0, 0, 0, .none⟩) = .ok .reset ∧
  decode (.port ⟨0b11010010, 0, 0, 0, .none⟩) = .ok .stop ∧
  decode (.stream [0b00111110, 0b00000101]) = .ok (.ldiA 0x05) ∧
  decode (.stream [0b01110110]) = .ok .hlt

/-- R99: `LenStep` and `MAXLEN` of `ILL2`. -/
def Obligations.LenStepOfIll2 : Prop :=
  targetMaxLen .ill2 = 2 ∧
  targetLenStep .ill2 [0x3E] = .more ∧
  (∀ b : Byte, targetLenStep .ill2 [0x3E, b] = .done) ∧
  targetLenStep .ill2 [0x76] = .done ∧
  ∀ b : Byte, b ≠ 0x3E → b ≠ 0x76 → targetLenStep .ill2 [b] = .unknown b

/-! ## Steps and agents -/

/-- R15, R253, R299 (the schedule, and the completion of an instruction in flight, are notes/assumptions/6.md, the refusal
before `BUILD` 10.md, and the ignoring of an operand a command does not take 20.md): a step runs the scheduled
command of the controller, or the scheduled step of the worker: a `FETCHI` only where no stop is asked for at a boundary of
a Processor that is not halted, else the exit, and an `EXECI` of the instruction in flight with the ticks after it. With nothing scheduled, or with the controller
waiting in `STOP`, the worker takes an iteration; with no worker either, the block waits. -/
def Obligations.StepRunsTheScheduledInstruction : Prop :=
  ∀ (s : State) (c : Command) (rest : List PortEntry) (i : Instr), decodeCommand c = .ok i →
    (s.port = ⟨.controller, c⟩ :: rest → s.blocked = false → workerOnly i = false →
      (s.built = true ∨ ∃ b, i = .build b) → step s = exec i (s.withPort rest)) ∧
    (s.port = ⟨.worker, c⟩ :: rest → s.active = true → workerOnly i = true →
      (i = .fetchi → stopsAtBoundary s = true → step s = exec .workerstep (s.withPort rest)) ∧
      (i = .execi → s.inFlight = true → step s = ticksAfter (exec .execi (s.withPort rest))) ∧
      ((i = .fetchi → stopsAtBoundary s = false) → (i = .execi → s.inFlight = false) →
        step s = exec i (s.withPort rest))) ∧
    (s.port = ⟨.controller, c⟩ :: rest → s.blocked = true → step s = exec .workerstep s) ∧
    (s.port = [] → s.active = true → step s = exec .workerstep s) ∧
    (s.port = [] → s.active = false → step s = .next s)

/-- R212 to R214, R253: where the bytes at the program counter are an instruction of `ILL2`, a step of the running
worker is that instruction on the state in which it has been fetched and decoded, and then the ticks. -/
def Obligations.StepRunsTheFetchedInstruction : Prop :=
  ∀ (s : State) (bytes : List Byte) (i : Instr), decodeStream bytes = .ok i →
    s.port = [] → s.active = true → s.dying = false → s.canFetch → s.target = .ill2 → s.registersFit →
    s.holdsAtPc bytes →
    step s = ticksAfter (exec i { s.consumed bytes .executing with decoded := decodedOf i })

/-- R93, R299: the controller never takes a step of the worker, the worker never issues a command of the controller, and
the worker's steps need a worker. That a command before the first `BUILD` is refused is the model's choice
(notes/assumptions/10.md): R299 says only that `BUILD` comes once, first. -/
def Obligations.AgentsIssueTheirOwnOperations : Prop :=
  ∀ (s : State) (c : Command) (rest : List PortEntry) (i : Instr), decodeCommand c = .ok i →
    (s.port = ⟨.controller, c⟩ :: rest → s.blocked = false → workerOnly i = true → step s = .refused .workerOnly) ∧
    (s.port = ⟨.controller, c⟩ :: rest → s.blocked = false → workerOnly i = false → s.built = false →
      (∀ b, i ≠ .build b) → step s = .refused .notBuilt) ∧
    (s.port = ⟨.worker, c⟩ :: rest → workerOnly i = false → step s = .refused .neverWorker) ∧
    (s.port = ⟨.worker, c⟩ :: rest → workerOnly i = true → s.active = false → step s = .refused .noWorker)

/-- R299, R331: while there is a worker every command but `START`, `STOP`, `ASM` and `DISASM` is refused. R332: `REGM`,
`REGIO` and `DLOAD` are refused once `lifecycle` is not `Idle`. -/
def Obligations.WorkerOwnsTheBlock : Prop :=
  (∀ (s : State) (c : Command) (i : Instr), decodeCommand c = .ok i → workerOnly i = false →
    s.active = true → s.built = true → i ≠ .start → i ≠ .stop → (∀ t, i ≠ .asm t) → (∀ l, i ≠ .disasm l) →
    ∃ r, exec i s = .refused r) ∧
  ∀ (s : State) (dev base size : Nat) (bytes : List Byte), s.lifecycle ≠ .idle →
    (∃ r, exec (.regm dev base size) s = .refused r) ∧ (∃ r, exec (.regio dev base size) s = .refused r) ∧
    ∃ r, exec (.dload dev bytes) s = .refused r

/-! ## Routers -/

/-- R151, R154 to R157, R162 to R165, R61: `FETCH8` to `FETCH64` and `IN8` to `IN64` at an address whose span lies in
one entry and in its Device return the bytes there, summed in the Device's order; the response alone changes. No
alignment is asked for (R63). -/
def Obligations.RouterReadReturnsTheBytes : Prop :=
  ∀ (s : State) (sp : Space) (w : Width) (a : Nat) (e : RouterEntry) (d : Device),
    s.quiet = true → a < 2 ^ s.addressWidth sp → lookup (s.entries sp) a = some e →
    a + w.bytes ≤ e.base + e.size → s.devices[e.dev]? = some d → a - e.base + w.bytes ≤ d.size →
    exec (.routerRead sp w a) s = .next
      { s with
        response :=
          { cond := none
            value := .data w
              (BitVec.ofNat 64 (accessValue d.order w.bytes fun i => d.storage.read (a - e.base + i))) } }

/-- R151, R158 to R161, R166 to R169, R61: `STORE8` to `STORE64` and `OUT8` to `OUT64` at such an address of a
ReadWrite Device change the bytes of the span of that Device, each to its byte of the value in the Device's order;
every other byte, and all else but the response, stays. -/
def Obligations.RouterWriteStoresTheBytes : Prop :=
  ∀ (s : State) (sp : Space) (w : Width) (a : Nat) (v : Word) (e : RouterEntry) (d : Device),
    s.quiet = true → a < 2 ^ s.addressWidth sp → lookup (s.entries sp) a = some e →
    a + w.bytes ≤ e.base + e.size → s.devices[e.dev]? = some d → d.policy = .readWrite →
    a - e.base + w.bytes ≤ d.size → d.storage.wf →
    ∃ m : Memory,
      exec (.routerWrite sp w a v) s = .next
        { s with
          devices := s.devices.set e.dev { d with storage := m }
          response := { cond := none, value := .none } } ∧
      ∀ j, m.read j =
        if a - e.base ≤ j ∧ j < a - e.base + w.bytes then accessByte d.order w.bytes (j - (a - e.base)) v
        else d.storage.read j

/-- R171: at every address no entry owns, a read and a write of every width on either Router report `Unmapped`, with the
address and the registered ranges (R281), and nothing else changes. -/
def Obligations.UnownedAddressIsUnmapped : Prop :=
  ∀ (s : State) (sp : Space) (w : Width) (a : Nat) (v : Word),
    s.quiet = true → a < 2 ^ s.addressWidth sp →
    (∀ e ∈ s.entries sp, ¬(e.base ≤ a ∧ a < e.base + e.size)) →
    exec (.routerRead sp w a) s =
      .next (s.report (.unmapped a ((s.entries sp).map fun e => (e.base, e.size)))) ∧
    exec (.routerWrite sp w a v) s =
      .next (s.report (.unmapped a ((s.entries sp).map fun e => (e.base, e.size))))

/-- R291: the checks of a Router access in their order: the owner of the first byte, the span in its entry, for a write
the policy, the Device's capacity; the first that fails is reported, and nothing else changes. -/
def Obligations.RouterChecksInPriorityOrder : Prop :=
  ∀ (s : State) (sp : Space) (w : Width) (a : Nat) (v : Word), s.quiet = true → a < 2 ^ s.addressWidth sp →
    (lookup (s.entries sp) a = none →
      exec (.routerRead sp w a) s = .next (s.report (.unmapped a (s.ranges sp))) ∧
      exec (.routerWrite sp w a v) s = .next (s.report (.unmapped a (s.ranges sp)))) ∧
    ∀ e : RouterEntry, lookup (s.entries sp) a = some e →
      (e.base + e.size < a + w.bytes →
        exec (.routerRead sp w a) s = .next (s.report (.unmapped a (s.ranges sp))) ∧
        exec (.routerWrite sp w a v) s = .next (s.report (.unmapped a (s.ranges sp)))) ∧
      ∀ d : Device, a + w.bytes ≤ e.base + e.size → s.devices[e.dev]? = some d →
        (d.policy = .readOnly →
          exec (.routerWrite sp w a v) s = .next (s.report (.writeProtected (a - e.base) w))) ∧
        (d.size < a - e.base + w.bytes →
          exec (.routerRead sp w a) s = .next
            (s.report (.outOfRange (a - e.base) d.size
              (if 1 < w.bytes then some (a - e.base, a - e.base + w.bytes) else none))) ∧
          (d.policy = .readWrite →
            exec (.routerWrite sp w a v) s = .next
              (s.report (.outOfRange (a - e.base) d.size
                (if 1 < w.bytes then some (a - e.base, a - e.base + w.bytes) else none)))))

/-- R150: among entries that do not overlap, `Lookup` finds the one that owns the address, if there is one, whatever
the order of the entries. -/
def Obligations.LookupFindsTheOneOwner : Prop :=
  ∀ (l : List RouterEntry) (a : Nat), l.Pairwise RouterEntry.disjoint →
    (∀ e, lookup l a = some e ↔ e ∈ l ∧ e.base ≤ a ∧ a < e.base + e.size) ∧
    (lookup l a = none ↔ ∀ e ∈ l, ¬(e.base ≤ a ∧ a < e.base + e.size)) ∧
    ∀ l', l'.Perm l → lookup l' a = lookup l a

/-- R170: an access to an address in the range of one entry leaves every byte of the Device of another entry as it was. -/
def Obligations.OtherDevicesUntouched : Prop :=
  ∀ (s t : State) (sp : Space) (w : Width) (a : Nat) (v : Word) (e e' : RouterEntry),
    s.routersSound → e ∈ s.entries sp → e' ∈ s.memEntries ++ s.ioEntries → e' ≠ e →
    e.base ≤ a → a < e.base + e.size →
    (exec (.routerRead sp w a) s = .next t ∨ exec (.routerWrite sp w a v) s = .next t) →
    ∀ j, t.storageByte e'.dev j = s.storageByte e'.dev j

/-- R152, R153: `REGM` and `REGIO`: their codes, the refusals, the first overlapping entry reported, or the entry
appended and the Device's copy of its base set, and nothing else changed but the response. -/
def Obligations.RegistrationAppendsOrRejects : Prop :=
  ∀ (s : State) (sp : Space) (dev base size : Nat),
    decodeCommand ⟨if sp = .mem then 0x40 else 0x50, dev, base, 0, .size size⟩ = .ok (registration sp dev base size) ∧
    (s.lifecycle ≠ .idle → ∃ r, exec (registration sp dev base size) s = .refused r) ∧
    (size < 1 ∨ 2 ^ s.addressWidth sp < base + size → ∃ r, exec (registration sp dev base size) s = .refused r) ∧
    ((∃ e ∈ s.memEntries ++ s.ioEntries, e.dev = dev) → ∃ r, exec (registration sp dev base size) s = .refused r) ∧
    ∀ d : Device, s.lifecycle = .idle → 1 ≤ size → base + size ≤ 2 ^ s.addressWidth sp →
      (∀ e ∈ s.memEntries ++ s.ioEntries, e.dev ≠ dev) → s.devices[dev]? = some d →
      ((∀ e ∈ s.entries sp, ¬(base < e.base + e.size ∧ e.base < base + size)) →
        exec (registration sp dev base size) s = .next
          { s.addEntry sp { dev, base, size } with
            devices := s.devices.set dev { d with base }
            response := { cond := none, value := .none } }) ∧
      ∀ (l₁ l₂ : List RouterEntry) (e : RouterEntry), s.entries sp = l₁ ++ e :: l₂ →
        (∀ e' ∈ l₁, ¬(base < e'.base + e'.size ∧ e'.base < base + size)) →
        base < e.base + e.size ∧ e.base < base + size →
        exec (registration sp dev base size) s =
          .next (s.report (.overlappingRegistration (base, size) (e.base, e.size)))

/-- R172: after the first `START` both tables are constants of every later step, and `lifecycle` is never `Idle` again. -/
def Obligations.TablesConstantAfterStart : Prop :=
  ∀ s t : State, s.built = true → s.lifecycle ≠ .idle → step s = .next t →
    t.memEntries = s.memEntries ∧ t.ioEntries = s.ioEntries ∧ t.lifecycle ≠ .idle ∧ t.built = true

/-! ## Devices -/

/-- R120: `DFETCH8` to `DFETCH64` and `DIN8` to `DIN64` return the bytes of the span, summed in the Device's order, or
report `OutOfRange`; the policy plays no part, and the response alone changes. -/
def Obligations.DeviceReadReturnsTheBytes : Prop :=
  ∀ (s : State) (sp : Space) (w : Width) (dev off : Nat) (d : Device), s.quiet = true → s.devices[dev]? = some d →
    (d.size < off + w.bytes →
      exec (.deviceRead sp w dev off) s = .next
        (s.report (.outOfRange off d.size (if 1 < w.bytes then some (off, off + w.bytes) else none)))) ∧
    (off + w.bytes ≤ d.size →
      exec (.deviceRead sp w dev off) s = .next
        { s with
          response :=
            { cond := none
              value := .data w (BitVec.ofNat 64 (accessValue d.order w.bytes fun i => d.storage.read (off + i))) } })

/-- R121: `DSTORE8` to `DSTORE64` and `DOUT8` to `DOUT64`: `WriteProtected` at every offset of a ReadOnly Device, else
`OutOfRange`, else the bytes of the span written and every other byte as it was; nothing else changes but the response. -/
def Obligations.DeviceWriteStoresTheBytes : Prop :=
  ∀ (s : State) (sp : Space) (w : Width) (dev off : Nat) (v : Word) (d : Device),
    s.quiet = true → s.devices[dev]? = some d →
    (d.policy = .readOnly →
      exec (.deviceWrite sp w dev off v) s = .next (s.report (.writeProtected off w))) ∧
    (d.policy = .readWrite → d.size < off + w.bytes →
      exec (.deviceWrite sp w dev off v) s = .next
        (s.report (.outOfRange off d.size (if 1 < w.bytes then some (off, off + w.bytes) else none)))) ∧
    (d.policy = .readWrite → off + w.bytes ≤ d.size → d.storage.wf →
      ∃ m : Memory,
        exec (.deviceWrite sp w dev off v) s = .next
          { s with
            devices := s.devices.set dev { d with storage := m }
            response := { cond := none, value := .none } } ∧
        ∀ j, m.read j =
          if off ≤ j ∧ j < off + w.bytes then accessByte d.order w.bytes (j - off) v else d.storage.read j)

/-- R139: at every valid offset of a writable Device, a Store and then a Fetch of the same width returns the value. -/
def Obligations.DeviceRoundTrip : Prop :=
  ∀ (s : State) (sp : Space) (w : Width) (dev off : Nat) (v : Word) (d : Device),
    s.quiet = true → s.devices[dev]? = some d → d.policy = .readWrite → off + w.bytes ≤ d.size → d.storage.wf →
    ∃ t, exec (.deviceWrite sp w dev off v) s = .next t ∧
      exec (.deviceRead sp w dev off) t = .next
        { t with response := { cond := none, value := .data w (BitVec.ofNat 64 (v.toNat % 2 ^ w.bits)) } }

/-- R138: `DLOAD`: its code, the three refusals, `OutOfRange` for a list longer than the ROM, else the bytes in list order from
offset 0, the later bytes as they were, and the one Load used up; nothing else changes but the response. -/
def Obligations.DloadLoadsARomOnce : Prop :=
  ∀ (s : State) (dev : Nat) (bytes : List Byte) (d : Device), s.devices[dev]? = some d →
    decodeCommand ⟨0x41, dev, 0, 0, .bytes bytes⟩ = .ok (.dload dev bytes) ∧
    (d.kind ≠ .rom ∨ s.lifecycle ≠ .idle ∨ d.loaded = true → ∃ r, exec (.dload dev bytes) s = .refused r) ∧
    (d.kind = .rom → s.lifecycle = .idle → d.loaded = false →
      (d.size < bytes.length →
        exec (.dload dev bytes) s = .next (s.report (.outOfRange 0 d.size (some (0, bytes.length))))) ∧
      (bytes.length ≤ d.size → d.storage.wf →
        ∃ m : Memory,
          exec (.dload dev bytes) s = .next
            { s with
              devices := s.devices.set dev { d with storage := m, loaded := true }
              response := { cond := none, value := .none } } ∧
          ∀ j, m.read j = (bytes[j]?).getD (d.storage.read j)))

/-- R67, R194, R196, R197, R217, R218: a Router read, a Device read, `RDREG`, `GETREGS`, `PRINTREGS`, `ASM` or `DISASM`
that goes on changes the response alone, and asked again it answers the same. -/
def Obligations.ReadsChangeTheResponseOnly : Prop :=
  ∀ (s t : State) (i : Instr),
    ((∃ sp w a, i = .routerRead sp w a) ∨ (∃ sp w dev off, i = .deviceRead sp w dev off) ∨ (∃ r, i = .rdreg r) ∨
      i = .getregs ∨ (∃ n, i = .printregs n) ∨ (∃ x, i = .asm x) ∨ ∃ l, i = .disasm l) →
    exec i s = .next t → t = { s with response := t.response } ∧ exec i t = .next t

/-- R295: a Device, Router, `ASM` or `DISASM` operation of the controller that raises a condition answers with it, and no
state changes. -/
def Obligations.ConditionsChangeTheResponseOnly : Prop :=
  ∀ (s t : State) (i : Instr) (c : Condition),
    ((∃ sp w a, i = .routerRead sp w a) ∨ (∃ sp w a v, i = .routerWrite sp w a v) ∨
      (∃ sp w dev off, i = .deviceRead sp w dev off) ∨ (∃ sp w dev off v, i = .deviceWrite sp w dev off v) ∨
      (∃ sp dev base size, i = registration sp dev base size) ∨ (∃ dev l, i = .dload dev l) ∨ (∃ x, i = .asm x) ∨
      ∃ l, i = .disasm l) →
    exec i s = .next t → t.response.cond = some c →
    t = { s with response := { cond := some c, value := .none } }

/-! ## Registers -/

/-- R194, R191, R193: `RDREG` of a storage register returns its value; of a half, the bits `wp − 1` down to `wp / 2`
(`Hi`) or `wp / 2 − 1` down to 0 (`Lo`) of its parent; a name not in the schema is refused. The response alone
changes. -/
def Obligations.RdregReadsWholeAndHalf : Prop :=
  ∀ s : State, s.quiet = true →
    (∀ (r : RegName) (c : RegCell), s.regs.cell? r = some c →
      exec (.rdreg r) s = .next { s with response := { cond := none, value := .data c.width c.val } }) ∧
    (∀ (r : RegName) (h : HalfReg) (c : RegCell), s.regs.cell? r = none → s.regs.half? r = some h →
      s.regs.cell? h.parent = some c → c.width ≠ .w8 → c.val.toNat < 2 ^ c.width.bits →
      ∃ w : Width, w.bits = c.width.bits / 2 ∧
        exec (.rdreg r) s = .next
          { s with
            response :=
              { cond := none
                value := .data w
                  (BitVec.ofNat 64
                    (match h.part with
                    | .hi => c.val.toNat / 2 ^ (c.width.bits / 2)
                    | .lo => c.val.toNat % 2 ^ (c.width.bits / 2))) } }) ∧
    ∀ r : RegName, s.regs.cell? r = none → s.regs.half? r = none → ∃ q, exec (.rdreg r) s = .refused q

/-- R195, R192, R193: `WRREG` of a storage register replaces its value by the low bits of `data`; of a half, that half
of its parent, the other half as it was; no other register changes, nor anything else but the response; a name not in
the schema is refused. For `data` with bits above the register's width, that the low bits are taken is the model's
reading (notes/assumptions/18.md). -/
def Obligations.WrregWritesWholeAndHalf : Prop :=
  ∀ (s : State) (v : Word), s.quiet = true →
    (∀ (r : RegName) (c : RegCell), s.regs.cell? r = some c →
      exec (.wrreg r v) s = .next
        { s with
          regs :=
            { s.regs with
              cells := s.regs.cells.map fun x =>
                if x.name = r then { x with val := BitVec.ofNat 64 (v.toNat % 2 ^ c.width.bits) } else x }
          response := { cond := none, value := .none } }) ∧
    (∀ (r : RegName) (h : HalfReg) (c : RegCell), s.regs.cell? r = none → s.regs.half? r = some h →
      s.regs.cell? h.parent = some c → c.width ≠ .w8 → c.val.toNat < 2 ^ c.width.bits →
      exec (.wrreg r v) s = .next
        { s with
          regs :=
            { s.regs with
              cells := s.regs.cells.map fun x =>
                if x.name = h.parent then
                  { x with
                    val := BitVec.ofNat 64
                      (match h.part with
                      | .hi =>
                        v.toNat % 2 ^ (c.width.bits / 2) * 2 ^ (c.width.bits / 2) +
                          c.val.toNat % 2 ^ (c.width.bits / 2)
                      | .lo =>
                        c.val.toNat / 2 ^ (c.width.bits / 2) * 2 ^ (c.width.bits / 2) +
                          v.toNat % 2 ^ (c.width.bits / 2)) }
                else x }
          response := { cond := none, value := .none } }) ∧
    ∀ r : RegName, s.regs.cell? r = none → s.regs.half? r = none → ∃ q, exec (.wrreg r v) s = .refused q

/-- R195, R192: writing both halves of a register, in either order, and reading the whole gives their concatenation. For
data with bits above a half's width, that the low bits are taken is the model's reading (notes/assumptions/18.md). -/
def Obligations.HalvesComposeToTheWhole : Prop :=
  ∀ (s : State) (p hi lo : RegName) (c : RegCell) (vh vl : Word), s.quiet = true →
    s.regs.cell? p = some c → c.width ≠ .w8 → c.val.toNat < 2 ^ c.width.bits →
    s.regs.cell? hi = none → s.regs.half? hi = some { name := hi, parent := p, part := .hi } →
    s.regs.cell? lo = none → s.regs.half? lo = some { name := lo, parent := p, part := .lo } →
    (∃ t u, exec (.wrreg hi vh) s = .next t ∧ exec (.wrreg lo vl) t = .next u ∧
      exec (.rdreg p) u = .next
        { u with
          response :=
            { cond := none
              value := .data c.width
                (BitVec.ofNat 64
                  (vh.toNat % 2 ^ (c.width.bits / 2) * 2 ^ (c.width.bits / 2) +
                    vl.toNat % 2 ^ (c.width.bits / 2))) } }) ∧
    ∃ t u, exec (.wrreg lo vl) s = .next t ∧ exec (.wrreg hi vh) t = .next u ∧
      exec (.rdreg p) u = .next
        { u with
          response :=
            { cond := none
              value := .data c.width
                (BitVec.ofNat 64
                  (vh.toNat % 2 ^ (c.width.bits / 2) * 2 ^ (c.width.bits / 2) +
                    vl.toNat % 2 ^ (c.width.bits / 2))) } }

/-- R196, R197: `GETREGS` returns every storage register with its value; `PRINTREGS` writes some text, a free value
(notes/assumptions/5.md), to its stream; the response alone changes. -/
def Obligations.GetregsAndPrintregsView : Prop :=
  ∀ s : State, s.quiet = true →
    exec .getregs s = .next
      { s with response := { cond := none, value := .registers (s.regs.cells.map fun c => (c.name, c.val)) } } ∧
    ∀ n : Nat, ∃ text : Text,
      exec (.printregs n) s = .next { s with response := { cond := none, value := .printed n text } }

/-! ## The Processor -/

/-- R210, R215, R216: `SETUP`, `SETUPDEBUG` and `STOPDEBUG` in `Idle` and `Stopped`, and their refusal otherwise. -/
def Obligations.SetupAndDebugCommands : Prop :=
  ∀ (s : State) (n : Nat),
    (s.quiet = true →
      exec (.setup .mem .io) s = .next
        { s with
          memRef := some .mem, ioRef := some .io, setupDone := true, response := { cond := none, value := .none } } ∧
      exec (.setupdebug n) s = .next { s with dbg := some n, response := { cond := none, value := .none } } ∧
      exec .stopdebug s = .next { s with dbg := none, response := { cond := none, value := .none } }) ∧
    (s.quiet = false →
      (∃ r, exec (.setup .mem .io) s = .refused r) ∧ (∃ r, exec (.setupdebug n) s = .refused r) ∧
      ∃ r, exec .stopdebug s = .refused r)

/-- R211, R322: `RESET` sets every storage register, the program counter among them, to its reset value and clears the
sequencer's bookkeeping; all else stays; while there is a worker it is refused. -/
def Obligations.ResetRestoresTheProcessor : Prop :=
  ∀ s : State,
    (s.quiet = true →
      exec .reset s = .next
        { s with
          regs := { s.regs with cells := s.regs.cells.map fun c => { c with val := c.reset } }
          pstate := .reset
          haltCause := .none
          fault := none
          instrIndex := 0
          ibuf := []
          decoded := none
          response := { cond := none, value := .none } }) ∧
    (s.quiet = false → ∃ r, exec .reset s = .refused r)

/-- R212: `FETCHI` reads bytes at ascending addresses from the program counter, asks `LenStep` after each, and stops
with the first list that is `Done`: those bytes in `ibuf`, the program counter past them modulo `2^PCW`, `Decoding`,
and nothing else changed. -/
def Obligations.FetchiReadsOneInstruction : Prop :=
  ∀ (s : State) (bytes : List Byte), s.canFetch → s.registersFit →
    bytes ≠ [] → bytes.length ≤ targetMaxLen s.target → s.holdsAtPc bytes →
    (∀ k, 0 < k → k < bytes.length → targetLenStep s.target (bytes.take k) = .more) →
    targetLenStep s.target bytes = .done →
    exec .fetchi s = .next (s.consumed bytes .decoding)

/-- R98, R212, R226, R294: `FETCHI` that meets an unknown byte, which is the last one read, or whose next read raises,
stands with the bytes read in `ibuf` and the program counter past them, and the condition is the fault record; that a
`FETCHI` taken by itself then ends the run in the fault halt of R294, which speaks of `WORKERSTEP`, is the model's reading
(notes/assumptions/13.md), and that a target whose `Unknown` names another byte is refused is its choice
(notes/assumptions/16.md). It is refused before `SETUP` and out of sequence. -/
def Obligations.FetchiRaisesWhereItStands : Prop :=
  ∀ (s : State) (bytes : List Byte),
    (s.canFetch → s.registersFit → s.holdsAtPc bytes →
      (∀ k, 0 < k → k < bytes.length → targetLenStep s.target (bytes.take k) = .more) →
      (∀ b, bytes ≠ [] → bytes.length ≤ targetMaxLen s.target → targetLenStep s.target bytes = .unknown b →
        exec .fetchi s =
          if bytes.getLast? = some b then .next ((s.consumed bytes .fetching).faultHalted (.unknownInstruction b))
          else .refused .targetContract) ∧
      (∀ c, bytes.length < targetMaxLen s.target → (bytes ≠ [] → targetLenStep s.target bytes = .more) →
        routerRead s .mem (s.fetchAddress bytes.length) .w8 = .raise c →
        exec .fetchi s = .next ((s.consumed bytes .fetching).faultHalted c))) ∧
    (s.setupDone = false → ∃ r, exec .fetchi s = .refused r) ∧
    (s.pstate = .decoding ∨ s.pstate = .executing → ∃ r, exec .fetchi s = .refused r)

/-- R213: `DECODEI` is ignored in `Halted`, refused outside `Decoding`, and else leaves the decoded instruction and
`Executing`, nothing else changed; for `ILL2` it decodes `3E b` and `76` (R222). -/
def Obligations.DecodeiDecodes : Prop :=
  (∀ (s : State) (d : Decoded),
    (s.pstate = .halted → exec .decodei s = .next s) ∧
    (s.pstate = .decoding → targetDecode s.target s.ibuf = some d →
      exec .decodei s = .next { s with decoded := some d, pstate := .executing }) ∧
    (s.pstate ≠ .halted → s.pstate ≠ .decoding → ∃ r, exec .decodei s = .refused r)) ∧
  (∀ b : Byte, targetDecode .ill2 [0x3E, b] = some (.ldiA b)) ∧ targetDecode .ill2 [0x76] = some .hlt

/-- R214, R221: `EXECI`, from the state its `Exec` has left: the instruction is gone, a halting one halts, the callback,
if installed, is asked once and may halt a Processor that is not halted, the index is incremented. The callback's
answer is the environment's next one, or the free value where the environment has given none (notes/assumptions/4.md).
The `Exec` of any target that raises ends the run where it stood, the condition its fault record; that an `EXECI` taken by
itself does so is the model's reading of R294, which speaks of `WORKERSTEP` (notes/assumptions/13.md). From `Decoding` it decodes first; out of
sequence it is refused. -/
def Obligations.ExeciCompletesOrRaises : Prop :=
  (∀ (s : State) (d : Decoded), s.pstate = .executing → s.decoded = some d →
    (∀ (s' : State) (o : ExecOutcome), runTree (targetExec d) s = .ends s' o →
      (s.dbg = none → exec .execi s = .next (s'.executed o false s.dbgAnswers s.dbgCount)) ∧
      (∀ (cb : Nat) (rest : List CallbackAnswer), s.dbg = some cb →
        (s.dbgAnswers = .continues :: rest →
          exec .execi s = .next (s'.executed o false rest (s.dbgCount + 1))) ∧
        (s.dbgAnswers = .stops :: rest → exec .execi s = .next (s'.executed o true rest (s.dbgCount + 1))) ∧
        (s.dbgAnswers = [] →
          exec .execi s = .next
            (s'.executed o (!Config.callbackContinues cb s.instrIndex s'.regs.view s.dbgCount) []
              (s.dbgCount + 1))))) ∧
    exec .execi s = workerOutcome (executeTree (targetExec d) s)) ∧
  (∀ (tree : ExecTree) (s s' : State) (c : Condition), s.pstate = .executing → runTree tree s = .raised s' c →
    workerOutcome (executeTree tree s) = .next (s'.faultHalted c)) ∧
  (∀ (s : State) (d : Decoded), s.pstate = .decoding → targetDecode s.target s.ibuf = some d →
    exec .execi s = exec .execi { s with decoded := some d, pstate := .executing }) ∧
  ∀ s : State, s.pstate = .reset ∨ s.pstate = .fetching → ∃ r, exec .execi s = .refused r

/-- R334, R335: a callback that issues `STOP` or does not return leaves no further step, and one that issues `START` is
refused (the callback's acts are notes/assumptions/4.md); an `Exec` that does not terminate, and a tick that does not
return after an instruction that ended, leave no further step (notes/assumptions/16.md, 3.md). That a `WORKERSTEP` begun
with an instruction in flight completes it is the model's choice (notes/assumptions/6.md). -/
def Obligations.ForbiddenCallbackEndsTheRun : Prop :=
  (∀ (s : State) (d : Decoded) (s' : State) (o : ExecOutcome) (cb : Nat) (rest : List CallbackAnswer),
    s.pstate = .executing → s.decoded = some d → runTree (targetExec d) s = .ends s' o → s.dbg = some cb →
    (s.dbgAnswers = .issuesStop :: rest → exec .execi s = .fault .callbackDeadlock) ∧
    (s.dbgAnswers = .neverReturns :: rest → exec .execi s = .fault .callbackNeverReturns) ∧
    (s.dbgAnswers = .issuesStart :: rest → exec .execi s = .refused .callbackStart)) ∧
  (∀ (tree : ExecTree) (s : State), s.pstate = .executing → runTree tree s = .neverEnds →
    workerOutcome (executeTree tree s) = .fault .execNeverReturns) ∧
  ∀ s s' : State, s.active = true → s.inFlight = true → s.haltCause = .none → exec .execi s = .next s' →
    s'.haltCause ≠ .fault → (∃ p ∈ s.periph, p.tick = .neverReturns) →
    exec .workerstep s = .fault .tickNeverReturns

/-- R223, R224: `LDI A` writes its byte to the accumulator and no other register, and continues; `HLT` writes no
register, no memory, and halts, whatever the callback answers; `EXECI` on either decoded is the instruction. -/
def Obligations.LoadImmediateAndHalt : Prop :=
  ∀ (s : State) (imm : Byte) (a : RegCell), s.pstate = .executing → s.regs.cell? .a = some a → a.width = .w8 →
    (s.dbg = none →
      exec (.ldiA imm) s = .next
        (State.executed
          { s with
            regs :=
              { s.regs with
                cells := s.regs.cells.map fun c => if c.name = .a then { c with val := imm.setWidth 64 } else c } }
          .cont false s.dbgAnswers s.dbgCount) ∧
      exec .hlt s = .next (s.executed .halt false s.dbgAnswers s.dbgCount)) ∧
    (∀ (cb : Nat) (answer : CallbackAnswer) (rest : List CallbackAnswer), s.dbg = some cb →
      s.dbgAnswers = answer :: rest → (answer = .continues ∨ answer = .stops) →
      exec .hlt s = .next (s.executed .halt false rest (s.dbgCount + 1))) ∧
    (s.decoded = some (.ldiA imm) → exec .execi s = exec (.ldiA imm) s) ∧
    (s.decoded = some .hlt → exec .execi s = exec .hlt s)

/-- R225: a halted Processor ignores `FETCHI`, `DECODEI`, `EXECI` and every instruction: no state changes. So a step of the
worker that its schedule gives as one of the three, whatever the dying flag, does nothing but take it from the schedule
(which is notes/assumptions/6.md). -/
def Obligations.HaltedProcessorExecutesNothing : Prop :=
  ∀ (s : State) (imm : Byte), s.pstate = .halted → s.setupDone = true →
    exec .fetchi s = .next s ∧ exec .decodei s = .next s ∧ exec .execi s = .next s ∧
    exec (.ldiA imm) s = .next s ∧ exec .hlt s = .next s ∧
    ∀ (c : Command) (rest : List PortEntry) (i : Instr), decodeCommand c = .ok i →
      (i = .fetchi ∨ i = .decodei ∨ i = .execi) → s.port = ⟨.worker, c⟩ :: rest → s.active = true →
      step s = .next { s with port := rest }

/-- R225, R298: no step leaves `Halted` but the controller's `RESET`; every other step keeps the halt cause, the fault
record and the instruction index. -/
def Obligations.OnlyResetLeavesHalted : Prop :=
  ∀ s t : State, s.built = true → s.pstate = .halted → step s = .next t →
    (t.pstate = .halted ∧ t.haltCause = s.haltCause ∧ t.fault = s.fault ∧ t.instrIndex = s.instrIndex) ∨
    ∃ (c : Command) (rest : List PortEntry), s.port = ⟨.controller, c⟩ :: rest ∧ decodeCommand c = .ok .reset ∧
      t.pstate = .reset ∧ t.haltCause = .none ∧ t.fault = none

/-- R219: for every complete instruction of `ILL2`, `ASM` of the text that `DISASM` answers gives the same bytes. -/
def Obligations.DisasmThenAsmGivesTheBytes : Prop :=
  ∀ (s : State) (bytes : List Byte) (i : Instr), s.target = .ill2 → decodeStream bytes = .ok i →
    ∃ (text : Text) (t u : State),
      exec (.disasm bytes) s = .next t ∧ t.response = { cond := none, value := .text text } ∧
      exec (.asm text) t = .next u ∧ u.response = { cond := none, value := .bytes bytes }

/-- R217, R218, in every phase (R299): what `ASM` and `DISASM` answer for the spec's examples, with no other change. -/
def Obligations.AsmAndDisasmExamples : Prop :=
  ∀ s : State, s.target = .ill2 →
    exec (.asm "LDI A,0x05".toList) s = .next (s.answer (.bytes [0x3E, 0x05])) ∧
    exec (.asm "hlt".toList) s = .next (s.answer (.bytes [0x76])) ∧
    exec (.asm "NOP".toList) s = .next (s.report (.unknownOpcode "NOP".toList)) ∧
    exec (.asm "LDI B,0x05".toList) s = .next (s.report (.invalidOperand "A".toList "B".toList)) ∧
    exec (.asm "LDI A,0x100".toList) s =
      .next (s.report (.invalidOperand "8-bit immediate".toList "0x100".toList)) ∧
    exec (.asm "HLT 1".toList) s = .next (s.report (.invalidOperand "end of line".toList "1".toList)) ∧
    exec (.disasm [0x3E, 0x05]) s = .next (s.answer (.text "LDI A,0x05".toList)) ∧
    exec (.disasm [0x76]) s = .next (s.answer (.text "HLT".toList)) ∧
    exec (.disasm [0xFF]) s = .next (s.report (.unknownInstruction 0xFF)) ∧
    (∃ r, exec (.disasm [0x3E]) s = .refused r) ∧ (∃ r, exec (.disasm [0x76, 0x76]) s = .refused r) ∧
    ∃ r, exec (.disasm []) s = .refused r

/-! ## The Engine -/

/-- R250, R299, R321: a second `BUILD` is refused, and a malformed operand is, whatever else it holds
(notes/assumptions/9.md; the other checks of `BuildArg.wf` are R5, R190 and that entry). `BUILD` of a layout without
overlap whose initial contents fit: the Devices in list order, each with its bytes, then the spare Devices
(notes/assumptions/9.md), the Routers' entries in list order, every register of the schema at its reset value, and every
other piece of state as R321 lists it; the model's own fields (the schedule, the callback's answers) stay. -/
def Obligations.BuildConstructsTheBlock : Prop :=
  ∀ (s : State) (b : BuildArg),
    (s.built = true → ∃ r, exec (.build b) s = .refused r) ∧
    (b.freqHz ≤ 0 ∨
        (∃ c ∈ b.config, c.size = 0 ∨ 2 ^ c.kind.space.width b.awMem b.awIo < c.base + c.size) ∨ b.wf = false →
      ∃ r, exec (.build b) s = .refused r) ∧
    (s.built = false → b.wf = true → b.config.Pairwise compatibleElements → (∀ c ∈ b.config, contentsFit c) →
      ∃ t, exec (.build b) s = .next t ∧ t.response = { cond := none, value := .none } ∧
        t.devices.length = b.config.length + b.spares.length ∧ t.buildFailed = false ∧ s.BuiltFrom t b b.config)

/-- R250, R296, R321: a `BUILD` that goes on is the one `BUILD` (R299; the bit `built` is notes/assumptions/10.md); where it
reports a condition, that is `OverlappingRegistration` or `OutOfRange`, it sets `build_failed` and leaves `Idle`. `BUILD` of
a well-formed layout reports the failure of its first element whose initial contents are longer than its Device, or whose
range overlaps an entry, the first such one; the Routers then hold exactly the entries before it, and all else is as after a
`BUILD` that ends (that a Device is named by its place in the layout is notes/assumptions/9.md). From then on `START` has no
effect, and no step clears `build_failed` or leaves `Idle`. -/
def Obligations.FailedBuildPreventsStart : Prop :=
  (∀ (s : State) (b : BuildArg) (before rest : List ConfigEntry) (c : ConfigEntry),
    s.built = false → b.wf = true → b.config = before ++ c :: rest → before.Pairwise compatibleElements →
    (∀ c' ∈ before, contentsFit c') →
    (∀ l, c.initialContents = some l → c.size < l.length →
      ∃ t, exec (.build b) s = .next t ∧
        t.response = { cond := some (.outOfRange 0 c.size (some (0, l.length))), value := .none } ∧
        t.buildFailed = true ∧ s.BuiltFrom t b before) ∧
    ∀ (l₁ l₂ : List RouterEntry) (e : RouterEntry), contentsFit c →
      layoutEntries before c.kind.space = l₁ ++ e :: l₂ →
      (∀ e' ∈ l₁, ¬(c.base < e'.base + e'.size ∧ e'.base < c.base + c.size)) →
      c.base < e.base + e.size ∧ e.base < c.base + c.size →
      ∃ t, exec (.build b) s = .next t ∧
        t.response =
          { cond := some (.overlappingRegistration (c.base, c.size) (e.base, e.size)), value := .none } ∧
        t.buildFailed = true ∧ s.BuiltFrom t b before) ∧
  (∀ (s t : State) (b : BuildArg), exec (.build b) s = .next t →
    t.built = true ∧ (t.buildFailed = true ↔ t.response.cond.isSome = true) ∧ t.lifecycle = .idle ∧
    ∀ c, t.response.cond = some c →
      (∃ r r', c = .overlappingRegistration r r') ∨ ∃ size span, c = .outOfRange 0 size span) ∧
  (∀ s : State, s.buildFailed = true →
    exec .start s = .next { s with response := { cond := none, value := .none } }) ∧
  ∀ s t : State, s.built = true → s.buildFailed = true → s.lifecycle = .idle → step s = .next t →
    t.built = true ∧ t.buildFailed = true ∧ t.lifecycle = .idle

/-- R251: `START` has no effect after a failed build, is ignored while there is a worker, and else clears the dying flag
and starts the worker, whose iterations are then the steps (the schedule is notes/assumptions/6.md). -/
def Obligations.StartStartsTheWorker : Prop :=
  ∀ s : State,
    (s.buildFailed = true ∨ s.active = true →
      exec .start s = .next { s with response := { cond := none, value := .none } }) ∧
    (s.buildFailed = false → s.lifecycle = .idle ∨ s.lifecycle = .stopped →
      ∃ t, t = { s with dying := false, lifecycle := .running, response := { cond := none, value := .none } } ∧
        exec .start s = .next t ∧ (t.port = [] → step t = exec .workerstep t))

/-- R252: `STOP` in `Running` sets the dying flag and waits in `Stopping`; in `Stopping` it waits; in `Idle` and
`Stopped` it returns at once and changes nothing. A waiting controller issues nothing, and it returns when the worker
exits at the boundary (the wait is notes/assumptions/6.md). -/
def Obligations.StopRequestsAndWaits : Prop :=
  ∀ s : State,
    (s.lifecycle = .running →
      exec .stop s = .next { s with dying := true, lifecycle := .stopping, blocked := true }) ∧
    (s.lifecycle = .stopping → exec .stop s = .next { s with blocked := true }) ∧
    (s.lifecycle = .idle ∨ s.lifecycle = .stopped →
      exec .stop s = .next { s with response := { cond := none, value := .none } }) ∧
    (∀ (c : Command) (rest : List PortEntry), s.blocked = true → s.port = ⟨.controller, c⟩ :: rest →
      step s = exec .workerstep s) ∧
    (s.blocked = true → s.lifecycle = .stopping → s.dying = true → s.inFlight = false →
      exec .workerstep s = .next
        { s with lifecycle := .stopped, blocked := false, response := { cond := none, value := .none } })

/-- R258, R259: `STOP` of a running worker at an instruction boundary: the worker's next boundary check exits, no
instruction begins, no register or byte changes, and without a halt cause the report is `StopRequested`. `STOP` while an
instruction is in flight: the instruction completes as without it, with its ticks, and the check after it exits. That a
`WORKERSTEP` begun with an instruction in flight completes it before the test of R253, and the wait bit `blocked`, are the
model's choice (notes/assumptions/6.md). -/
def Obligations.StopEndsTheRunAtTheBoundary : Prop :=
  ∀ s : State, s.lifecycle = .running →
    (s.inFlight = false →
      ∃ t u, exec .stop s = .next t ∧ exec .workerstep t = .next u ∧
        u = { s with
          lifecycle := .stopped, dying := true, blocked := false, response := { cond := none, value := .none } } ∧
        (s.haltCause = .none → u.stopReport = some .stopRequested)) ∧
    (s.inFlight = true →
      ∃ t, exec .stop s = .next t ∧
        ∀ u : State, exec .workerstep s = .next u → u.haltCause ≠ .fault →
          exec .workerstep t = .next { u with dying := true, lifecycle := .stopping, blocked := true } ∧
          exec .workerstep { u with dying := true, lifecycle := .stopping, blocked := true } = .next
            { u with
              lifecycle := .stopped, dying := true, blocked := false, response := { cond := none, value := .none } })

/-- R253 to R257: the three hooks change nothing; a worker that finds the dying flag or a halted Processor at an
instruction boundary exits, and a controller waiting in `STOP` returns (the wait is notes/assumptions/6.md). -/
def Obligations.HooksAndBoundaryExit : Prop :=
  ∀ s : State,
    exec .initthread s = .next s ∧ exec .exitthread s = .next s ∧ exec .flushthread s = .next s ∧
    (s.active = true → s.pstate ≠ .decoding → s.pstate ≠ .executing → (s.dying = true ∨ s.pstate = .halted) →
      exec .workerstep s = .next
        { s with
          lifecycle := .stopped
          blocked := false
          response := if s.blocked = true then { cond := none, value := .none } else s.response }) ∧
    (s.active = false → ∃ r, exec .workerstep s = .refused r)

/-- R253, R212 to R214, R260: one `WORKERSTEP` over `3E imm` or `76` at the program counter, with no callback and ticks
that return: the instruction's whole effect, and one tick of every Peripheral. -/
def Obligations.WorkerstepRunsIll2 : Prop :=
  ∀ (s : State) (a : RegCell), s.active = true → s.dying = false → s.canFetch → s.target = .ill2 →
    s.registersFit → s.regs.cell? .a = some a → a.width = .w8 → s.dbg = none →
    (∀ p ∈ s.periph, p.tick ≠ .neverReturns) →
    (∀ imm : Byte, s.holdsAtPc [0x3E, imm] →
      exec .workerstep s = .next
        { s with
          regs := (s.regs.setPc (BitVec.ofNat 64 (s.fetchAddress 2))).setCell .a (imm.setWidth 64)
          ibuf := []
          decoded := none
          pstate := .fetching
          instrIndex := s.instrIndex + 1
          periph := s.periph.map tickOne }) ∧
    (s.holdsAtPc [0x76] →
      exec .workerstep s = .next
        { s with
          regs := s.regs.setPc (BitVec.ofNat 64 (s.fetchAddress 1))
          ibuf := []
          decoded := none
          pstate := .halted
          haltCause := .haltInstruction
          instrIndex := s.instrIndex + 1
          periph := s.periph.map tickOne })

/-- R253, R260, R294: a `WORKERSTEP` past the boundary is `FETCHI`, then `EXECI`, then one tick of each Peripheral in list
order; where `FETCHI` or `EXECI` ends in a fault halt the iteration ends there, without the ticks; a tick that does not
return leaves no further step (R335). That a `WORKERSTEP` begun with an instruction in flight is the rest of that
instruction, whatever the dying flag, is the model's choice (notes/assumptions/6.md), drawn from R35 and R258: the
`WORKERSTEP` of R253 has no such case. -/
def Obligations.WorkerstepIsFetchExecuteTick : Prop :=
  ∀ s s₁ : State, s.haltRecorded → s.active = true →
    (s.dying = false ∧ s.pstate ≠ .halted ∧ exec .fetchi s = .next s₁) ∨
      ((s.pstate = .decoding ∨ s.pstate = .executing) ∧ s₁ = s) →
    (s₁.haltCause = .fault → exec .workerstep s = .next s₁) ∧
    (s₁.haltCause ≠ .fault → ∀ s₂ : State, exec .execi s₁ = .next s₂ →
      (s₂.haltCause = .fault → exec .workerstep s = .next s₂) ∧
      (s₂.haltCause ≠ .fault → (∀ p ∈ s.periph, p.tick ≠ .neverReturns) →
        exec .workerstep s = .next { s₂ with periph := s₂.periph.map tickOne }) ∧
      (s₂.haltCause ≠ .fault → (∃ p ∈ s.periph, p.tick = .neverReturns) →
        exec .workerstep s = .fault .tickNeverReturns))

/-- R294: a `WORKERSTEP` that ends in a fault halt leaves the Processor `Halted`, the condition that its `FETCHI` or `EXECI`
raised in the fault record, all else as that operation left it, and the Engine `Stopped`; it ticks no Peripheral, asks no
callback, counts no instruction; a waiting controller returns (the wait, and the rest of an instruction in flight, are
notes/assumptions/6.md). -/
def Obligations.FaultHaltSkipsTicksAndCallback : Prop :=
  ∀ s t : State, s.haltCause ≠ .fault → exec .workerstep s = .next t → t.haltCause = .fault →
    t.pstate = .halted ∧ t.fault.isSome = true ∧ t.lifecycle = .stopped ∧ t.blocked = false ∧
    t.periph = s.periph ∧ t.dbgCount = s.dbgCount ∧ t.dbgAnswers = s.dbgAnswers ∧ t.instrIndex = s.instrIndex ∧
    ∃ (s' : State) (c : Condition), t = s'.faultHalted c ∧ t.fault = some c ∧
      ((s.inFlight = false ∧ fetchRun s = .raised s' c) ∨
        (s.inFlight = false ∧ ∃ s₁, fetchRun s = .done s₁ ∧ execRun s₁ = .raised s' c) ∨
        (s.inFlight = true ∧ execRun s = .raised s' c))

/-- R25, R41, R222 (c), R253: what a `WORKERSTEP` may change; with the target `ILL2`, and in a state whose decoded
instruction, if it has one, is an answer of that target's `Decode` (`Obligations.StepKeepsTheSequencer`), it changes no
Device. -/
def Obligations.WorkerstepFrame : Prop :=
  ∀ s t : State, exec .workerstep s = .next t →
    t = { s with
      devices := t.devices
      regs := t.regs
      pstate := t.pstate
      haltCause := t.haltCause
      fault := t.fault
      instrIndex := t.instrIndex
      ibuf := t.ibuf
      decoded := t.decoded
      lifecycle := t.lifecycle
      periph := t.periph
      response := t.response
      blocked := t.blocked
      dbgAnswers := t.dbgAnswers
      dbgCount := t.dbgCount } ∧
    (s.sequencerSound → s.target = .ill2 → ∀ dev j, t.storageByte dev j = s.storageByte dev j)

/-- R35, R258: the dying flag is read at the boundary alone: `FETCHI`, `DECODEI`, `EXECI` and the instructions do the
same with the flag set as without it, and leave it as it is. -/
def Obligations.InstructionsIgnoreTheDyingFlag : Prop :=
  ∀ (s : State) (i : Instr),
    (i = .fetchi ∨ i = .decodei ∨ i = .execi ∨ (∃ imm, i = .ldiA imm) ∨ i = .hlt) →
    exec i (setDying s) = mapNext setDying (exec i s)

/-- R259: the stop report of a state with `lifecycle = Stopped`, a halt cause before a stop request. That without a halt
cause it is `StopRequested` with the dying flag clear too, as after a `RESET`, is the model's choice
(notes/assumptions/14.md). -/
def Obligations.StopReportByHaltCause : Prop :=
  ∀ (s : State) (c : Condition), s.lifecycle = .stopped →
    (s.haltCause = .fault → s.fault = some c → s.stopReport = some (.faultHalt c)) ∧
    (s.haltCause = .debugRequested → s.stopReport = some .debugHalt) ∧
    (s.haltCause = .haltInstruction → s.stopReport = some .instructionHalt) ∧
    (s.haltCause = .none → s.stopReport = some .stopRequested)

/-- R280: the codes of the seven conditions, and 0 for none. -/
def Obligations.ConditionCodes : Prop :=
  ∀ (a n : Nat) (l : List (Nat × Nat)) (p : Option (Nat × Nat)) (r r' : Nat × Nat) (w : Width) (b : Byte)
    (t t' : Text) (v : RespValue),
    Response.code ⟨none, v⟩ = 0 ∧
    Response.code ⟨some (.unmapped a l), v⟩ = 1 ∧
    Response.code ⟨some (.outOfRange a n p), v⟩ = 2 ∧
    Response.code ⟨some (.writeProtected a w), v⟩ = 3 ∧
    Response.code ⟨some (.unknownInstruction b), v⟩ = 4 ∧
    Response.code ⟨some (.unknownOpcode t), v⟩ = 5 ∧
    Response.code ⟨some (.invalidOperand t t'), v⟩ = 6 ∧
    Response.code ⟨some (.overlappingRegistration r r'), v⟩ = 7

/-! ## Invariants of every step -/

/-- R20, R21: every step keeps every storage canonical and inside its Device. -/
def Obligations.StepKeepsStorages : Prop :=
  ∀ s t : State, s.storagesCanonical → step s = .next t → t.storagesCanonical

/-- R22: every step keeps the Routers' entries disjoint, not empty, in their space, and each Device in at most one. -/
def Obligations.StepKeepsRouters : Prop :=
  ∀ s t : State, s.routersSound → step s = .next t → t.routersSound

/-- R24, R193: every step keeps every register at a value of its width. -/
def Obligations.StepKeepsRegisters : Prop :=
  ∀ s t : State, s.registersFit → step s = .next t → t.registersFit

/-- R30, R31, R32, R41: every step keeps `halt_cause` at `None` exactly outside `Halted`, the fault record valid exactly
for the cause `Fault`, the spaces of a set-up Processor, a decoded instruction in `Executing`, a decoded instruction only as
an answer of the target's `Decode` (R213, R222), and an instruction in flight only while there is a worker (R258). -/
def Obligations.StepKeepsTheSequencer : Prop :=
  ∀ s t : State, s.haltRecorded → s.sequencerSound → step s = .next t → t.haltRecorded ∧ t.sequencerSound

/-- R251, R252, R296: every step keeps the Engine's bits consistent: a waiting controller only in `Stopping`, the dying
flag set in `Stopping` and clear in `Running`, and `Idle` after a failed build (the wait is notes/assumptions/6.md). -/
def Obligations.StepKeepsTheEngine : Prop :=
  ∀ s t : State, s.engineSound → step s = .next t → t.engineSound

/-- R20: once built, every step keeps the number of Devices and every Device's kind, size, policy and order; and after
the first `START` a ReadOnly Device does not change at all. -/
def Obligations.DevicesKeepTheirShape : Prop :=
  ∀ s t : State, s.built = true → step s = .next t →
    t.devices.length = s.devices.length ∧
    ∀ (k : Nat) (d : Device), s.devices[k]? = some d →
      ∃ d', t.devices[k]? = some d' ∧ Device.sameShape d d' ∧
        (s.lifecycle ≠ .idle → d.policy = .readOnly → d' = d)

/-- R70, R250, R321, with the choices of notes/assumptions/1.md: `BUILD` of `CFG_ILL` gives the state after reset, and
that state is sound. -/
def Obligations.ResetIsSoundAndBuilt : Prop :=
  exec (.build Config.cfgIll) { State.reset with built := false } = .next State.reset ∧ State.reset.Inv
end

