-- ==== Sys2Proof/Laws/Memory.lean ====
section
/-! SUPPORT. The laws of storage: read after write, the canonical form kept by every memory operation, spans of bytes, and
the byte-order functions. -/

namespace Sys2Proof.Machine

/-! ## Cell lists -/

/-- The cells of a written list are the new one or old ones. -/
theorem mem_putCell {fill : Byte} {i : Nat} {b : Byte} {l : List Host.Cell} {c : Host.Cell}
    (h : c ∈ putCell fill i b l) : c = (i, b) ∧ b ≠ fill ∨ c ∈ l := by
  induction l with
  | nil =>
    unfold putCell at h
    split at h
    · simp at h
    · next hb => exact Or.inl ⟨by simpa using h, hb⟩
  | cons a l ih =>
    unfold putCell at h
    split at h
    · split at h
      · exact Or.inr h
      · next hb =>
        rcases List.mem_cons.1 h with h | h
        · exact Or.inl ⟨h, hb⟩
        · exact Or.inr h
    · split at h
      · split at h
        · exact Or.inr (List.mem_cons_of_mem _ h)
        · next hb =>
          rcases List.mem_cons.1 h with h | h
          · exact Or.inl ⟨h, hb⟩
          · exact Or.inr (List.mem_cons_of_mem _ h)
      · rcases List.mem_cons.1 h with h | h
        · exact Or.inr (h ▸ List.mem_cons_self)
        · rcases ih h with h | h
          · exact Or.inl h
          · exact Or.inr (List.mem_cons_of_mem _ h)

/-- Writing keeps the offsets strictly rising. -/
theorem putCell_rising {fill : Byte} {i : Nat} {b : Byte} {l : List Host.Cell}
    (h : l.Pairwise fun a b => a.1 < b.1) : (putCell fill i b l).Pairwise fun a b => a.1 < b.1 := by
  induction l with
  | nil => unfold putCell; split <;> simp
  | cons a l ih =>
    have ha := (List.pairwise_cons.1 h).1
    have hl := (List.pairwise_cons.1 h).2
    unfold putCell
    split
    · next hia =>
      split
      · exact h
      · refine List.pairwise_cons.2 ⟨fun c hc => ?_, h⟩
        rcases List.mem_cons.1 hc with hc | hc
        · exact hc ▸ hia
        · exact Nat.lt_trans hia (ha c hc)
    · next hia =>
      split
      · next heq =>
        split
        · exact hl
        · exact List.pairwise_cons.2 ⟨fun c hc => by simpa [heq] using ha c hc, hl⟩
      · next hne =>
        refine List.pairwise_cons.2 ⟨fun c hc => ?_, ih hl⟩
        rcases mem_putCell hc with ⟨hc, _⟩ | hc
        · subst hc; simp; omega
        · exact ha c hc

/-- An offset below every listed one reads as `fill`. -/
theorem readCell_of_lt {fill : Byte} {i : Nat} {l : List Host.Cell} (h : ∀ c ∈ l, i < c.1) :
    readCell fill i l = fill := by
  induction l with
  | nil => rfl
  | cons a l ih =>
    have ha := h a List.mem_cons_self
    unfold readCell
    rw [if_neg (by omega)]
    exact ih fun c hc => h c (List.mem_cons_of_mem _ hc)

/-- Read after write, for the same offset and for any other. -/
theorem readCell_putCell {fill : Byte} {i j : Nat} {b : Byte} {l : List Host.Cell}
    (h : l.Pairwise fun a b => a.1 < b.1) :
    readCell fill j (putCell fill i b l) = if j = i then b else readCell fill j l := by
  induction l with
  | nil =>
    unfold putCell
    by_cases hb : b = fill <;> by_cases hj : j = i <;> simp [hb, hj, readCell]
    intro h; exact absurd h.symm hj
  | cons a l ih =>
    have ha := (List.pairwise_cons.1 h).1
    have hl := (List.pairwise_cons.1 h).2
    unfold putCell
    split
    · next hia =>
      have hi : readCell fill i (a :: l) = fill := by
        refine readCell_of_lt fun c hc => ?_
        rcases List.mem_cons.1 hc with hc | hc
        · exact hc ▸ hia
        · exact Nat.lt_trans hia (ha c hc)
      split
      · next hb =>
        by_cases hj : j = i
        · simp [hj, hi, hb]
        · simp [hj]
      · by_cases hj : j = i
        · simp [hj, readCell]
        · rw [if_neg hj]; conv_lhs => unfold readCell
          rw [if_neg (fun h => hj h.symm)]
    · split
      · next heq =>
        have hi : readCell fill i l = fill := readCell_of_lt fun c hc => heq ▸ ha c hc
        split
        · next hb =>
          by_cases hj : j = i
          · simp [hj, hi, hb]
          · rw [if_neg hj]; conv_rhs => unfold readCell
            rw [if_neg (by omega)]
        · by_cases hj : j = i
          · simp [hj, readCell]
          · rw [if_neg hj]; unfold readCell
            rw [if_neg (fun h => hj h.symm), if_neg (by omega)]
      · next hlt hne =>
        unfold readCell
        by_cases haj : a.1 = j
        · rw [if_pos haj, if_pos haj, if_neg (by omega)]
        · rw [if_neg haj, if_neg haj]; exact ih hl

/-! ## Storage -/

@[simp] theorem Memory.write_fill (m : Memory) (i : Nat) (b : Byte) : (m.write i b).fill = m.fill := rfl

/-- A write keeps the canonical form. -/
theorem Memory.write_wf {m : Memory} (h : m.wf) (i : Nat) (b : Byte) : (m.write i b).wf := by
  refine ⟨putCell_rising h.1, fun c hc => ?_⟩
  rcases mem_putCell hc with ⟨rfl, hb⟩ | hc
  · exact hb
  · exact h.2 c hc

/-- Read after write. -/
theorem Memory.read_write {m : Memory} (h : m.wf) (i j : Nat) (b : Byte) :
    (m.write i b).read j = if j = i then b else m.read j := readCell_putCell h.1

/-- A storage with nothing listed is in canonical form. -/
theorem Memory.empty_wf (fill : Byte) : Memory.wf { fill := fill, cells := [] } := by simp [Memory.wf]

@[simp] theorem Memory.writeSpan_fill (m : Memory) (off : Nat) (bs : List Byte) :
    (m.writeSpan off bs).fill = m.fill := by
  induction bs generalizing m off with
  | nil => rfl
  | cons b bs ih => simp [Memory.writeSpan, ih]

/-- Writing a span keeps the canonical form. -/
theorem Memory.writeSpan_wf {m : Memory} (h : m.wf) (off : Nat) (bs : List Byte) : (m.writeSpan off bs).wf := by
  induction bs generalizing m off with
  | nil => exact h
  | cons b bs ih => exact ih (Memory.write_wf h off b) (off + 1)

/-- Read after writing a span: inside it the byte written, outside it what was there. -/
theorem Memory.read_writeSpan {m : Memory} (h : m.wf) (off : Nat) (bs : List Byte) (j : Nat) :
    (m.writeSpan off bs).read j = if off ≤ j ∧ j < off + bs.length then bs.getD (j - off) 0 else m.read j := by
  induction bs generalizing m off with
  | nil => simp only [writeSpan, List.length_nil]; rw [if_neg (by omega)]
  | cons b bs ih =>
    rw [writeSpan, ih (write_wf h off b), read_write h]
    simp only [List.length_cons]
    by_cases hj : j = off
    · subst hj
      rw [if_neg (by omega), if_pos rfl, if_pos (by omega)]; simp
    · by_cases hin : off + 1 ≤ j ∧ j < off + 1 + bs.length
      · rw [if_pos hin, if_pos (by omega)]
        obtain ⟨k, rfl⟩ : ∃ k, j = off + 1 + k := ⟨j - (off + 1), by omega⟩
        rw [show off + 1 + k - (off + 1) = k by omega, show off + 1 + k - off = k + 1 by omega]; simp
      · rw [if_neg hin, if_neg hj, if_neg (by omega)]

/-- The cells of a storage with a span written lie in the span or were there. -/
theorem Memory.mem_writeSpan {m : Memory} {off : Nat} {bs : List Byte} {c : Host.Cell}
    (h : c ∈ (m.writeSpan off bs).cells) : c ∈ m.cells ∨ off ≤ c.1 ∧ c.1 < off + bs.length := by
  induction bs generalizing m off with
  | nil => exact Or.inl h
  | cons b bs ih =>
    rcases ih h with h | ⟨h1, h2⟩
    · rcases mem_putCell h with ⟨rfl, _⟩ | h
      · exact Or.inr ⟨Nat.le_refl _, by simp⟩
      · exact Or.inl h
    · exact Or.inr ⟨by omega, by simp only [List.length_cons]; omega⟩

@[simp] theorem Memory.readSpan_length (m : Memory) (off n : Nat) : (m.readSpan off n).length = n := by
  induction n generalizing off with
  | zero => rfl
  | succ n ih => simp [readSpan, ih]

/-- The bytes of a span, by offset. -/
theorem Memory.readSpan_getD (m : Memory) (off n i : Nat) (h : i < n) :
    (m.readSpan off n).getD i 0 = m.read (off + i) := by
  induction n generalizing off i with
  | zero => omega
  | succ n ih =>
    cases i with
    | zero => simp [readSpan]
    | succ i =>
      have := ih (off + 1) i (by omega)
      simp only [readSpan, List.getD_cons_succ, this]
      congr 1; omega

/-- Reading back a span just written gives its bytes. -/
theorem Memory.readSpan_writeSpan {m : Memory} (h : m.wf) (off : Nat) (bs : List Byte) :
    (m.writeSpan off bs).readSpan off bs.length = bs := by
  refine List.ext_getElem (by simp) fun i h1 h2 => ?_
  have h3 := readSpan_getD (m.writeSpan off bs) off bs.length i h2
  rw [read_writeSpan h, if_pos (by omega), Nat.add_sub_cancel_left] at h3
  simpa [List.getD_eq_getElem?_getD, h1, h2] using h3

/-! ## Byte order -/

@[simp] theorem leBytes_length (n v : Nat) : (leBytes n v).length = n := by
  induction n generalizing v with
  | zero => rfl
  | succ n ih => simp [leBytes, ih]

/-- The value of `n` bytes fits `n` bytes. -/
theorem leValue_lt (bs : List Byte) : leValue bs < 256 ^ bs.length := by
  induction bs with
  | nil => simp [leValue]
  | cons b bs ih =>
    have hb : b.toNat < 256 := b.isLt
    simp only [leValue, List.length_cons, Nat.pow_succ]
    omega

/-- Taking a value apart and assembling it again keeps its low `n` bytes (R228 (d)). -/
theorem leValue_leBytes (n v : Nat) : leValue (leBytes n v) = v % 256 ^ n := by
  induction n generalizing v with
  | zero => simp [leBytes, leValue, Nat.mod_one]
  | succ n ih =>
    have h : (BitVec.ofNat 8 v).toNat = v % 256 := by simp
    simp only [leBytes, leValue, ih, h]
    rw [show 256 ^ (n + 1) = 256 * 256 ^ n by ring, Nat.mod_mul]

@[simp] theorem bytesOfValue_length (order : ByteOrder) (n : Nat) (v : Word) :
    (bytesOfValue order n v).length = n := by
  cases order <;> simp [bytesOfValue]

/-- The bytes of a value, read back in the same order, give its low `n` bytes (R61). -/
theorem valueOfBytes_bytesOfValue (order : ByteOrder) (n : Nat) (v : Word) :
    valueOfBytes order (bytesOfValue order n v) = BitVec.ofNat 64 (v.toNat % 256 ^ n) := by
  cases order <;> simp [valueOfBytes, bytesOfValue, leValue_leBytes]

/-! ## Devices -/

/-- All that a Device read can do (R120). -/
theorem Device.read_cases (d : Device) (off : Nat) (w : Width) :
    d.size < off + w.bytes ∧ d.read off w = .error (.outOfRange off d.size (payloadSpan off w.bytes)) ∨
    off + w.bytes ≤ d.size ∧ d.read off w = .ok (valueOfBytes d.order (d.storage.readSpan off w.bytes)) := by
  unfold Device.read
  split
  · next h => exact Or.inl ⟨h, rfl⟩
  · next h => exact Or.inr ⟨by omega, rfl⟩

/-- All that a Device write can do (R121). -/
theorem Device.write_cases (d : Device) (off : Nat) (w : Width) (v : Word) :
    d.policy = .readOnly ∧ d.write off w v = .error (.writeProtected off w) ∨
    d.policy = .readWrite ∧ d.size < off + w.bytes ∧
      d.write off w v = .error (.outOfRange off d.size (payloadSpan off w.bytes)) ∨
    d.policy = .readWrite ∧ off + w.bytes ≤ d.size ∧
      d.write off w v = .ok { d with storage := d.storage.writeSpan off (bytesOfValue d.order w.bytes v) } := by
  unfold Device.write
  cases hp : d.policy
  · by_cases h : d.size < off + w.bytes
    · exact Or.inr (Or.inl ⟨rfl, h, by simp [h]⟩)
    · exact Or.inr (Or.inr ⟨rfl, by omega, by simp [h]⟩)
  · exact Or.inl ⟨rfl, by simp⟩

/-- All that loading a byte list can do (R138). -/
theorem Device.load_cases (d : Device) (bytes : List Byte) :
    d.size < bytes.length ∧ d.load bytes = .error (.outOfRange 0 d.size (some (0, bytes.length))) ∨
    bytes.length ≤ d.size ∧ d.load bytes = .ok { d with storage := d.storage.writeSpan 0 bytes } := by
  unfold Device.load
  split
  · next h => exact Or.inl ⟨h, rfl⟩
  · next h => exact Or.inr ⟨by omega, rfl⟩

/-- The storage of the Devices of the reset state is in canonical form. -/
theorem reset_storages_wf : ∀ d ∈ State.reset.devices, d.storage.wf := by decide

end Sys2Proof.Machine
end

