-- ==== Sys2Proof/Laws/State.lean ====
section
/-! SUPPORT. One lemma per field per update of the state, so that no later proof unfolds a record update. -/

namespace Sys2Proof.Machine

variable (s : State)

/-! ### `setDevice` -/

@[simp] theorem setDevice_devices (i : Nat) (d : Device) : (s.setDevice i d).devices = s.devices.set i d := rfl
@[simp] theorem setDevice_memEntries (i : Nat) (d : Device) : (s.setDevice i d).memEntries = s.memEntries := rfl
@[simp] theorem setDevice_ioEntries (i : Nat) (d : Device) : (s.setDevice i d).ioEntries = s.ioEntries := rfl
@[simp] theorem setDevice_awMem (i : Nat) (d : Device) : (s.setDevice i d).awMem = s.awMem := rfl
@[simp] theorem setDevice_awIo (i : Nat) (d : Device) : (s.setDevice i d).awIo = s.awIo := rfl
@[simp] theorem setDevice_target (i : Nat) (d : Device) : (s.setDevice i d).target = s.target := rfl
@[simp] theorem setDevice_regs (i : Nat) (d : Device) : (s.setDevice i d).regs = s.regs := rfl
@[simp] theorem setDevice_pstate (i : Nat) (d : Device) : (s.setDevice i d).pstate = s.pstate := rfl
@[simp] theorem setDevice_haltCause (i : Nat) (d : Device) : (s.setDevice i d).haltCause = s.haltCause := rfl
@[simp] theorem setDevice_fault (i : Nat) (d : Device) : (s.setDevice i d).fault = s.fault := rfl
@[simp] theorem setDevice_setupDone (i : Nat) (d : Device) : (s.setDevice i d).setupDone = s.setupDone := rfl
@[simp] theorem setDevice_memRef (i : Nat) (d : Device) : (s.setDevice i d).memRef = s.memRef := rfl
@[simp] theorem setDevice_ioRef (i : Nat) (d : Device) : (s.setDevice i d).ioRef = s.ioRef := rfl
@[simp] theorem setDevice_instrIndex (i : Nat) (d : Device) : (s.setDevice i d).instrIndex = s.instrIndex := rfl
@[simp] theorem setDevice_dbg (i : Nat) (d : Device) : (s.setDevice i d).dbg = s.dbg := rfl
@[simp] theorem setDevice_ibuf (i : Nat) (d : Device) : (s.setDevice i d).ibuf = s.ibuf := rfl
@[simp] theorem setDevice_decoded (i : Nat) (d : Device) : (s.setDevice i d).decoded = s.decoded := rfl
@[simp] theorem setDevice_lifecycle (i : Nat) (d : Device) : (s.setDevice i d).lifecycle = s.lifecycle := rfl
@[simp] theorem setDevice_dying (i : Nat) (d : Device) : (s.setDevice i d).dying = s.dying := rfl
@[simp] theorem setDevice_buildFailed (i : Nat) (d : Device) : (s.setDevice i d).buildFailed = s.buildFailed := rfl
@[simp] theorem setDevice_interval (i : Nat) (d : Device) : (s.setDevice i d).interval = s.interval := rfl
@[simp] theorem setDevice_periph (i : Nat) (d : Device) : (s.setDevice i d).periph = s.periph := rfl
@[simp] theorem setDevice_response (i : Nat) (d : Device) : (s.setDevice i d).response = s.response := rfl
@[simp] theorem setDevice_blocked (i : Nat) (d : Device) : (s.setDevice i d).blocked = s.blocked := rfl
@[simp] theorem setDevice_built (i : Nat) (d : Device) : (s.setDevice i d).built = s.built := rfl
@[simp] theorem setDevice_port (i : Nat) (d : Device) : (s.setDevice i d).port = s.port := rfl
@[simp] theorem setDevice_dbgAnswers (i : Nat) (d : Device) : (s.setDevice i d).dbgAnswers = s.dbgAnswers := rfl
@[simp] theorem setDevice_dbgCount (i : Nat) (d : Device) : (s.setDevice i d).dbgCount = s.dbgCount := rfl

/-! ### `addDevice` -/

@[simp] theorem addDevice_devices (d : Device) : (s.addDevice d).devices = s.devices ++ [d] := rfl
@[simp] theorem addDevice_memEntries (d : Device) : (s.addDevice d).memEntries = s.memEntries := rfl
@[simp] theorem addDevice_ioEntries (d : Device) : (s.addDevice d).ioEntries = s.ioEntries := rfl
@[simp] theorem addDevice_awMem (d : Device) : (s.addDevice d).awMem = s.awMem := rfl
@[simp] theorem addDevice_awIo (d : Device) : (s.addDevice d).awIo = s.awIo := rfl
@[simp] theorem addDevice_target (d : Device) : (s.addDevice d).target = s.target := rfl
@[simp] theorem addDevice_regs (d : Device) : (s.addDevice d).regs = s.regs := rfl
@[simp] theorem addDevice_pstate (d : Device) : (s.addDevice d).pstate = s.pstate := rfl
@[simp] theorem addDevice_haltCause (d : Device) : (s.addDevice d).haltCause = s.haltCause := rfl
@[simp] theorem addDevice_fault (d : Device) : (s.addDevice d).fault = s.fault := rfl
@[simp] theorem addDevice_setupDone (d : Device) : (s.addDevice d).setupDone = s.setupDone := rfl
@[simp] theorem addDevice_memRef (d : Device) : (s.addDevice d).memRef = s.memRef := rfl
@[simp] theorem addDevice_ioRef (d : Device) : (s.addDevice d).ioRef = s.ioRef := rfl
@[simp] theorem addDevice_instrIndex (d : Device) : (s.addDevice d).instrIndex = s.instrIndex := rfl
@[simp] theorem addDevice_dbg (d : Device) : (s.addDevice d).dbg = s.dbg := rfl
@[simp] theorem addDevice_ibuf (d : Device) : (s.addDevice d).ibuf = s.ibuf := rfl
@[simp] theorem addDevice_decoded (d : Device) : (s.addDevice d).decoded = s.decoded := rfl
@[simp] theorem addDevice_lifecycle (d : Device) : (s.addDevice d).lifecycle = s.lifecycle := rfl
@[simp] theorem addDevice_dying (d : Device) : (s.addDevice d).dying = s.dying := rfl
@[simp] theorem addDevice_buildFailed (d : Device) : (s.addDevice d).buildFailed = s.buildFailed := rfl
@[simp] theorem addDevice_interval (d : Device) : (s.addDevice d).interval = s.interval := rfl
@[simp] theorem addDevice_periph (d : Device) : (s.addDevice d).periph = s.periph := rfl
@[simp] theorem addDevice_response (d : Device) : (s.addDevice d).response = s.response := rfl
@[simp] theorem addDevice_blocked (d : Device) : (s.addDevice d).blocked = s.blocked := rfl
@[simp] theorem addDevice_built (d : Device) : (s.addDevice d).built = s.built := rfl
@[simp] theorem addDevice_port (d : Device) : (s.addDevice d).port = s.port := rfl
@[simp] theorem addDevice_dbgAnswers (d : Device) : (s.addDevice d).dbgAnswers = s.dbgAnswers := rfl
@[simp] theorem addDevice_dbgCount (d : Device) : (s.addDevice d).dbgCount = s.dbgCount := rfl

/-! ### `withRegs` -/

@[simp] theorem withRegs_devices (f : RegFile) : (s.withRegs f).devices = s.devices := rfl
@[simp] theorem withRegs_memEntries (f : RegFile) : (s.withRegs f).memEntries = s.memEntries := rfl
@[simp] theorem withRegs_ioEntries (f : RegFile) : (s.withRegs f).ioEntries = s.ioEntries := rfl
@[simp] theorem withRegs_awMem (f : RegFile) : (s.withRegs f).awMem = s.awMem := rfl
@[simp] theorem withRegs_awIo (f : RegFile) : (s.withRegs f).awIo = s.awIo := rfl
@[simp] theorem withRegs_target (f : RegFile) : (s.withRegs f).target = s.target := rfl
@[simp] theorem withRegs_regs (f : RegFile) : (s.withRegs f).regs = f := rfl
@[simp] theorem withRegs_pstate (f : RegFile) : (s.withRegs f).pstate = s.pstate := rfl
@[simp] theorem withRegs_haltCause (f : RegFile) : (s.withRegs f).haltCause = s.haltCause := rfl
@[simp] theorem withRegs_fault (f : RegFile) : (s.withRegs f).fault = s.fault := rfl
@[simp] theorem withRegs_setupDone (f : RegFile) : (s.withRegs f).setupDone = s.setupDone := rfl
@[simp] theorem withRegs_memRef (f : RegFile) : (s.withRegs f).memRef = s.memRef := rfl
@[simp] theorem withRegs_ioRef (f : RegFile) : (s.withRegs f).ioRef = s.ioRef := rfl
@[simp] theorem withRegs_instrIndex (f : RegFile) : (s.withRegs f).instrIndex = s.instrIndex := rfl
@[simp] theorem withRegs_dbg (f : RegFile) : (s.withRegs f).dbg = s.dbg := rfl
@[simp] theorem withRegs_ibuf (f : RegFile) : (s.withRegs f).ibuf = s.ibuf := rfl
@[simp] theorem withRegs_decoded (f : RegFile) : (s.withRegs f).decoded = s.decoded := rfl
@[simp] theorem withRegs_lifecycle (f : RegFile) : (s.withRegs f).lifecycle = s.lifecycle := rfl
@[simp] theorem withRegs_dying (f : RegFile) : (s.withRegs f).dying = s.dying := rfl
@[simp] theorem withRegs_buildFailed (f : RegFile) : (s.withRegs f).buildFailed = s.buildFailed := rfl
@[simp] theorem withRegs_interval (f : RegFile) : (s.withRegs f).interval = s.interval := rfl
@[simp] theorem withRegs_periph (f : RegFile) : (s.withRegs f).periph = s.periph := rfl
@[simp] theorem withRegs_response (f : RegFile) : (s.withRegs f).response = s.response := rfl
@[simp] theorem withRegs_blocked (f : RegFile) : (s.withRegs f).blocked = s.blocked := rfl
@[simp] theorem withRegs_built (f : RegFile) : (s.withRegs f).built = s.built := rfl
@[simp] theorem withRegs_port (f : RegFile) : (s.withRegs f).port = s.port := rfl
@[simp] theorem withRegs_dbgAnswers (f : RegFile) : (s.withRegs f).dbgAnswers = s.dbgAnswers := rfl
@[simp] theorem withRegs_dbgCount (f : RegFile) : (s.withRegs f).dbgCount = s.dbgCount := rfl

/-! ### `answer` -/

@[simp] theorem answer_devices (v : RespValue) : (s.answer v).devices = s.devices := rfl
@[simp] theorem answer_memEntries (v : RespValue) : (s.answer v).memEntries = s.memEntries := rfl
@[simp] theorem answer_ioEntries (v : RespValue) : (s.answer v).ioEntries = s.ioEntries := rfl
@[simp] theorem answer_awMem (v : RespValue) : (s.answer v).awMem = s.awMem := rfl
@[simp] theorem answer_awIo (v : RespValue) : (s.answer v).awIo = s.awIo := rfl
@[simp] theorem answer_target (v : RespValue) : (s.answer v).target = s.target := rfl
@[simp] theorem answer_regs (v : RespValue) : (s.answer v).regs = s.regs := rfl
@[simp] theorem answer_pstate (v : RespValue) : (s.answer v).pstate = s.pstate := rfl
@[simp] theorem answer_haltCause (v : RespValue) : (s.answer v).haltCause = s.haltCause := rfl
@[simp] theorem answer_fault (v : RespValue) : (s.answer v).fault = s.fault := rfl
@[simp] theorem answer_setupDone (v : RespValue) : (s.answer v).setupDone = s.setupDone := rfl
@[simp] theorem answer_memRef (v : RespValue) : (s.answer v).memRef = s.memRef := rfl
@[simp] theorem answer_ioRef (v : RespValue) : (s.answer v).ioRef = s.ioRef := rfl
@[simp] theorem answer_instrIndex (v : RespValue) : (s.answer v).instrIndex = s.instrIndex := rfl
@[simp] theorem answer_dbg (v : RespValue) : (s.answer v).dbg = s.dbg := rfl
@[simp] theorem answer_ibuf (v : RespValue) : (s.answer v).ibuf = s.ibuf := rfl
@[simp] theorem answer_decoded (v : RespValue) : (s.answer v).decoded = s.decoded := rfl
@[simp] theorem answer_lifecycle (v : RespValue) : (s.answer v).lifecycle = s.lifecycle := rfl
@[simp] theorem answer_dying (v : RespValue) : (s.answer v).dying = s.dying := rfl
@[simp] theorem answer_buildFailed (v : RespValue) : (s.answer v).buildFailed = s.buildFailed := rfl
@[simp] theorem answer_interval (v : RespValue) : (s.answer v).interval = s.interval := rfl
@[simp] theorem answer_periph (v : RespValue) : (s.answer v).periph = s.periph := rfl
@[simp] theorem answer_response (v : RespValue) : (s.answer v).response = { cond := none, value := v } := rfl
@[simp] theorem answer_blocked (v : RespValue) : (s.answer v).blocked = s.blocked := rfl
@[simp] theorem answer_built (v : RespValue) : (s.answer v).built = s.built := rfl
@[simp] theorem answer_port (v : RespValue) : (s.answer v).port = s.port := rfl
@[simp] theorem answer_dbgAnswers (v : RespValue) : (s.answer v).dbgAnswers = s.dbgAnswers := rfl
@[simp] theorem answer_dbgCount (v : RespValue) : (s.answer v).dbgCount = s.dbgCount := rfl

/-! ### `report` -/

@[simp] theorem report_devices (c : Condition) : (s.report c).devices = s.devices := rfl
@[simp] theorem report_memEntries (c : Condition) : (s.report c).memEntries = s.memEntries := rfl
@[simp] theorem report_ioEntries (c : Condition) : (s.report c).ioEntries = s.ioEntries := rfl
@[simp] theorem report_awMem (c : Condition) : (s.report c).awMem = s.awMem := rfl
@[simp] theorem report_awIo (c : Condition) : (s.report c).awIo = s.awIo := rfl
@[simp] theorem report_target (c : Condition) : (s.report c).target = s.target := rfl
@[simp] theorem report_regs (c : Condition) : (s.report c).regs = s.regs := rfl
@[simp] theorem report_pstate (c : Condition) : (s.report c).pstate = s.pstate := rfl
@[simp] theorem report_haltCause (c : Condition) : (s.report c).haltCause = s.haltCause := rfl
@[simp] theorem report_fault (c : Condition) : (s.report c).fault = s.fault := rfl
@[simp] theorem report_setupDone (c : Condition) : (s.report c).setupDone = s.setupDone := rfl
@[simp] theorem report_memRef (c : Condition) : (s.report c).memRef = s.memRef := rfl
@[simp] theorem report_ioRef (c : Condition) : (s.report c).ioRef = s.ioRef := rfl
@[simp] theorem report_instrIndex (c : Condition) : (s.report c).instrIndex = s.instrIndex := rfl
@[simp] theorem report_dbg (c : Condition) : (s.report c).dbg = s.dbg := rfl
@[simp] theorem report_ibuf (c : Condition) : (s.report c).ibuf = s.ibuf := rfl
@[simp] theorem report_decoded (c : Condition) : (s.report c).decoded = s.decoded := rfl
@[simp] theorem report_lifecycle (c : Condition) : (s.report c).lifecycle = s.lifecycle := rfl
@[simp] theorem report_dying (c : Condition) : (s.report c).dying = s.dying := rfl
@[simp] theorem report_buildFailed (c : Condition) : (s.report c).buildFailed = s.buildFailed := rfl
@[simp] theorem report_interval (c : Condition) : (s.report c).interval = s.interval := rfl
@[simp] theorem report_periph (c : Condition) : (s.report c).periph = s.periph := rfl
@[simp] theorem report_response (c : Condition) : (s.report c).response = { cond := some c, value := .none } := rfl
@[simp] theorem report_blocked (c : Condition) : (s.report c).blocked = s.blocked := rfl
@[simp] theorem report_built (c : Condition) : (s.report c).built = s.built := rfl
@[simp] theorem report_port (c : Condition) : (s.report c).port = s.port := rfl
@[simp] theorem report_dbgAnswers (c : Condition) : (s.report c).dbgAnswers = s.dbgAnswers := rfl
@[simp] theorem report_dbgCount (c : Condition) : (s.report c).dbgCount = s.dbgCount := rfl

/-! ### `withPort` -/

@[simp] theorem withPort_devices (l : List PortEntry) : (s.withPort l).devices = s.devices := rfl
@[simp] theorem withPort_memEntries (l : List PortEntry) : (s.withPort l).memEntries = s.memEntries := rfl
@[simp] theorem withPort_ioEntries (l : List PortEntry) : (s.withPort l).ioEntries = s.ioEntries := rfl
@[simp] theorem withPort_awMem (l : List PortEntry) : (s.withPort l).awMem = s.awMem := rfl
@[simp] theorem withPort_awIo (l : List PortEntry) : (s.withPort l).awIo = s.awIo := rfl
@[simp] theorem withPort_target (l : List PortEntry) : (s.withPort l).target = s.target := rfl
@[simp] theorem withPort_regs (l : List PortEntry) : (s.withPort l).regs = s.regs := rfl
@[simp] theorem withPort_pstate (l : List PortEntry) : (s.withPort l).pstate = s.pstate := rfl
@[simp] theorem withPort_haltCause (l : List PortEntry) : (s.withPort l).haltCause = s.haltCause := rfl
@[simp] theorem withPort_fault (l : List PortEntry) : (s.withPort l).fault = s.fault := rfl
@[simp] theorem withPort_setupDone (l : List PortEntry) : (s.withPort l).setupDone = s.setupDone := rfl
@[simp] theorem withPort_memRef (l : List PortEntry) : (s.withPort l).memRef = s.memRef := rfl
@[simp] theorem withPort_ioRef (l : List PortEntry) : (s.withPort l).ioRef = s.ioRef := rfl
@[simp] theorem withPort_instrIndex (l : List PortEntry) : (s.withPort l).instrIndex = s.instrIndex := rfl
@[simp] theorem withPort_dbg (l : List PortEntry) : (s.withPort l).dbg = s.dbg := rfl
@[simp] theorem withPort_ibuf (l : List PortEntry) : (s.withPort l).ibuf = s.ibuf := rfl
@[simp] theorem withPort_decoded (l : List PortEntry) : (s.withPort l).decoded = s.decoded := rfl
@[simp] theorem withPort_lifecycle (l : List PortEntry) : (s.withPort l).lifecycle = s.lifecycle := rfl
@[simp] theorem withPort_dying (l : List PortEntry) : (s.withPort l).dying = s.dying := rfl
@[simp] theorem withPort_buildFailed (l : List PortEntry) : (s.withPort l).buildFailed = s.buildFailed := rfl
@[simp] theorem withPort_interval (l : List PortEntry) : (s.withPort l).interval = s.interval := rfl
@[simp] theorem withPort_periph (l : List PortEntry) : (s.withPort l).periph = s.periph := rfl
@[simp] theorem withPort_response (l : List PortEntry) : (s.withPort l).response = s.response := rfl
@[simp] theorem withPort_blocked (l : List PortEntry) : (s.withPort l).blocked = s.blocked := rfl
@[simp] theorem withPort_built (l : List PortEntry) : (s.withPort l).built = s.built := rfl
@[simp] theorem withPort_port (l : List PortEntry) : (s.withPort l).port = l := rfl
@[simp] theorem withPort_dbgAnswers (l : List PortEntry) : (s.withPort l).dbgAnswers = s.dbgAnswers := rfl
@[simp] theorem withPort_dbgCount (l : List PortEntry) : (s.withPort l).dbgCount = s.dbgCount := rfl

/-! ### `workerExit` -/

@[simp] theorem workerExit_devices : (workerExit s).devices = s.devices := rfl
@[simp] theorem workerExit_memEntries : (workerExit s).memEntries = s.memEntries := rfl
@[simp] theorem workerExit_ioEntries : (workerExit s).ioEntries = s.ioEntries := rfl
@[simp] theorem workerExit_awMem : (workerExit s).awMem = s.awMem := rfl
@[simp] theorem workerExit_awIo : (workerExit s).awIo = s.awIo := rfl
@[simp] theorem workerExit_target : (workerExit s).target = s.target := rfl
@[simp] theorem workerExit_regs : (workerExit s).regs = s.regs := rfl
@[simp] theorem workerExit_pstate : (workerExit s).pstate = s.pstate := rfl
@[simp] theorem workerExit_haltCause : (workerExit s).haltCause = s.haltCause := rfl
@[simp] theorem workerExit_fault : (workerExit s).fault = s.fault := rfl
@[simp] theorem workerExit_setupDone : (workerExit s).setupDone = s.setupDone := rfl
@[simp] theorem workerExit_memRef : (workerExit s).memRef = s.memRef := rfl
@[simp] theorem workerExit_ioRef : (workerExit s).ioRef = s.ioRef := rfl
@[simp] theorem workerExit_instrIndex : (workerExit s).instrIndex = s.instrIndex := rfl
@[simp] theorem workerExit_dbg : (workerExit s).dbg = s.dbg := rfl
@[simp] theorem workerExit_ibuf : (workerExit s).ibuf = s.ibuf := rfl
@[simp] theorem workerExit_decoded : (workerExit s).decoded = s.decoded := rfl
@[simp] theorem workerExit_lifecycle : (workerExit s).lifecycle = .stopped := rfl
@[simp] theorem workerExit_dying : (workerExit s).dying = s.dying := rfl
@[simp] theorem workerExit_buildFailed : (workerExit s).buildFailed = s.buildFailed := rfl
@[simp] theorem workerExit_interval : (workerExit s).interval = s.interval := rfl
@[simp] theorem workerExit_periph : (workerExit s).periph = s.periph := rfl
@[simp] theorem workerExit_response : (workerExit s).response = if s.blocked then { cond := none, value := .none } else s.response := rfl
@[simp] theorem workerExit_blocked : (workerExit s).blocked = false := rfl
@[simp] theorem workerExit_built : (workerExit s).built = s.built := rfl
@[simp] theorem workerExit_port : (workerExit s).port = s.port := rfl
@[simp] theorem workerExit_dbgAnswers : (workerExit s).dbgAnswers = s.dbgAnswers := rfl
@[simp] theorem workerExit_dbgCount : (workerExit s).dbgCount = s.dbgCount := rfl

/-! ### `takeFault` -/

@[simp] theorem takeFault_devices (c : Condition) : (takeFault s c).devices = s.devices := rfl
@[simp] theorem takeFault_memEntries (c : Condition) : (takeFault s c).memEntries = s.memEntries := rfl
@[simp] theorem takeFault_ioEntries (c : Condition) : (takeFault s c).ioEntries = s.ioEntries := rfl
@[simp] theorem takeFault_awMem (c : Condition) : (takeFault s c).awMem = s.awMem := rfl
@[simp] theorem takeFault_awIo (c : Condition) : (takeFault s c).awIo = s.awIo := rfl
@[simp] theorem takeFault_target (c : Condition) : (takeFault s c).target = s.target := rfl
@[simp] theorem takeFault_regs (c : Condition) : (takeFault s c).regs = s.regs := rfl
@[simp] theorem takeFault_pstate (c : Condition) : (takeFault s c).pstate = .halted := rfl
@[simp] theorem takeFault_haltCause (c : Condition) : (takeFault s c).haltCause = .fault := rfl
@[simp] theorem takeFault_fault (c : Condition) : (takeFault s c).fault = some c := rfl
@[simp] theorem takeFault_setupDone (c : Condition) : (takeFault s c).setupDone = s.setupDone := rfl
@[simp] theorem takeFault_memRef (c : Condition) : (takeFault s c).memRef = s.memRef := rfl
@[simp] theorem takeFault_ioRef (c : Condition) : (takeFault s c).ioRef = s.ioRef := rfl
@[simp] theorem takeFault_instrIndex (c : Condition) : (takeFault s c).instrIndex = s.instrIndex := rfl
@[simp] theorem takeFault_dbg (c : Condition) : (takeFault s c).dbg = s.dbg := rfl
@[simp] theorem takeFault_ibuf (c : Condition) : (takeFault s c).ibuf = s.ibuf := rfl
@[simp] theorem takeFault_decoded (c : Condition) : (takeFault s c).decoded = s.decoded := rfl
@[simp] theorem takeFault_lifecycle (c : Condition) : (takeFault s c).lifecycle = .stopped := rfl
@[simp] theorem takeFault_dying (c : Condition) : (takeFault s c).dying = s.dying := rfl
@[simp] theorem takeFault_buildFailed (c : Condition) : (takeFault s c).buildFailed = s.buildFailed := rfl
@[simp] theorem takeFault_interval (c : Condition) : (takeFault s c).interval = s.interval := rfl
@[simp] theorem takeFault_periph (c : Condition) : (takeFault s c).periph = s.periph := rfl
@[simp] theorem takeFault_response (c : Condition) : (takeFault s c).response = if s.blocked then { cond := none, value := .none } else s.response := rfl
@[simp] theorem takeFault_blocked (c : Condition) : (takeFault s c).blocked = false := rfl
@[simp] theorem takeFault_built (c : Condition) : (takeFault s c).built = s.built := rfl
@[simp] theorem takeFault_port (c : Condition) : (takeFault s c).port = s.port := rfl
@[simp] theorem takeFault_dbgAnswers (c : Condition) : (takeFault s c).dbgAnswers = s.dbgAnswers := rfl
@[simp] theorem takeFault_dbgCount (c : Condition) : (takeFault s c).dbgCount = s.dbgCount := rfl

/-! ### `resetProcessor` -/

@[simp] theorem resetProcessor_devices : (resetProcessor s).devices = s.devices := rfl
@[simp] theorem resetProcessor_memEntries : (resetProcessor s).memEntries = s.memEntries := rfl
@[simp] theorem resetProcessor_ioEntries : (resetProcessor s).ioEntries = s.ioEntries := rfl
@[simp] theorem resetProcessor_awMem : (resetProcessor s).awMem = s.awMem := rfl
@[simp] theorem resetProcessor_awIo : (resetProcessor s).awIo = s.awIo := rfl
@[simp] theorem resetProcessor_target : (resetProcessor s).target = s.target := rfl
@[simp] theorem resetProcessor_regs : (resetProcessor s).regs = s.regs.resetAll := rfl
@[simp] theorem resetProcessor_pstate : (resetProcessor s).pstate = .reset := rfl
@[simp] theorem resetProcessor_haltCause : (resetProcessor s).haltCause = .none := rfl
@[simp] theorem resetProcessor_fault : (resetProcessor s).fault = none := rfl
@[simp] theorem resetProcessor_setupDone : (resetProcessor s).setupDone = s.setupDone := rfl
@[simp] theorem resetProcessor_memRef : (resetProcessor s).memRef = s.memRef := rfl
@[simp] theorem resetProcessor_ioRef : (resetProcessor s).ioRef = s.ioRef := rfl
@[simp] theorem resetProcessor_instrIndex : (resetProcessor s).instrIndex = 0 := rfl
@[simp] theorem resetProcessor_dbg : (resetProcessor s).dbg = s.dbg := rfl
@[simp] theorem resetProcessor_ibuf : (resetProcessor s).ibuf = [] := rfl
@[simp] theorem resetProcessor_decoded : (resetProcessor s).decoded = none := rfl
@[simp] theorem resetProcessor_lifecycle : (resetProcessor s).lifecycle = s.lifecycle := rfl
@[simp] theorem resetProcessor_dying : (resetProcessor s).dying = s.dying := rfl
@[simp] theorem resetProcessor_buildFailed : (resetProcessor s).buildFailed = s.buildFailed := rfl
@[simp] theorem resetProcessor_interval : (resetProcessor s).interval = s.interval := rfl
@[simp] theorem resetProcessor_periph : (resetProcessor s).periph = s.periph := rfl
@[simp] theorem resetProcessor_response : (resetProcessor s).response = s.response := rfl
@[simp] theorem resetProcessor_blocked : (resetProcessor s).blocked = s.blocked := rfl
@[simp] theorem resetProcessor_built : (resetProcessor s).built = s.built := rfl
@[simp] theorem resetProcessor_port : (resetProcessor s).port = s.port := rfl
@[simp] theorem resetProcessor_dbgAnswers : (resetProcessor s).dbgAnswers = s.dbgAnswers := rfl
@[simp] theorem resetProcessor_dbgCount : (resetProcessor s).dbgCount = s.dbgCount := rfl

/-! ### `setupSpaces` -/

@[simp] theorem setupSpaces_devices (m i : Space) : (setupSpaces m i s).devices = s.devices := rfl
@[simp] theorem setupSpaces_memEntries (m i : Space) : (setupSpaces m i s).memEntries = s.memEntries := rfl
@[simp] theorem setupSpaces_ioEntries (m i : Space) : (setupSpaces m i s).ioEntries = s.ioEntries := rfl
@[simp] theorem setupSpaces_awMem (m i : Space) : (setupSpaces m i s).awMem = s.awMem := rfl
@[simp] theorem setupSpaces_awIo (m i : Space) : (setupSpaces m i s).awIo = s.awIo := rfl
@[simp] theorem setupSpaces_target (m i : Space) : (setupSpaces m i s).target = s.target := rfl
@[simp] theorem setupSpaces_regs (m i : Space) : (setupSpaces m i s).regs = s.regs := rfl
@[simp] theorem setupSpaces_pstate (m i : Space) : (setupSpaces m i s).pstate = s.pstate := rfl
@[simp] theorem setupSpaces_haltCause (m i : Space) : (setupSpaces m i s).haltCause = s.haltCause := rfl
@[simp] theorem setupSpaces_fault (m i : Space) : (setupSpaces m i s).fault = s.fault := rfl
@[simp] theorem setupSpaces_setupDone (m i : Space) : (setupSpaces m i s).setupDone = true := rfl
@[simp] theorem setupSpaces_memRef (m i : Space) : (setupSpaces m i s).memRef = some m := rfl
@[simp] theorem setupSpaces_ioRef (m i : Space) : (setupSpaces m i s).ioRef = some i := rfl
@[simp] theorem setupSpaces_instrIndex (m i : Space) : (setupSpaces m i s).instrIndex = s.instrIndex := rfl
@[simp] theorem setupSpaces_dbg (m i : Space) : (setupSpaces m i s).dbg = s.dbg := rfl
@[simp] theorem setupSpaces_ibuf (m i : Space) : (setupSpaces m i s).ibuf = s.ibuf := rfl
@[simp] theorem setupSpaces_decoded (m i : Space) : (setupSpaces m i s).decoded = s.decoded := rfl
@[simp] theorem setupSpaces_lifecycle (m i : Space) : (setupSpaces m i s).lifecycle = s.lifecycle := rfl
@[simp] theorem setupSpaces_dying (m i : Space) : (setupSpaces m i s).dying = s.dying := rfl
@[simp] theorem setupSpaces_buildFailed (m i : Space) : (setupSpaces m i s).buildFailed = s.buildFailed := rfl
@[simp] theorem setupSpaces_interval (m i : Space) : (setupSpaces m i s).interval = s.interval := rfl
@[simp] theorem setupSpaces_periph (m i : Space) : (setupSpaces m i s).periph = s.periph := rfl
@[simp] theorem setupSpaces_response (m i : Space) : (setupSpaces m i s).response = s.response := rfl
@[simp] theorem setupSpaces_blocked (m i : Space) : (setupSpaces m i s).blocked = s.blocked := rfl
@[simp] theorem setupSpaces_built (m i : Space) : (setupSpaces m i s).built = s.built := rfl
@[simp] theorem setupSpaces_port (m i : Space) : (setupSpaces m i s).port = s.port := rfl
@[simp] theorem setupSpaces_dbgAnswers (m i : Space) : (setupSpaces m i s).dbgAnswers = s.dbgAnswers := rfl
@[simp] theorem setupSpaces_dbgCount (m i : Space) : (setupSpaces m i s).dbgCount = s.dbgCount := rfl

/-! ### `consumeByte` -/

@[simp] theorem consumeByte_devices (b : Byte) : (consumeByte s b).devices = s.devices := rfl
@[simp] theorem consumeByte_memEntries (b : Byte) : (consumeByte s b).memEntries = s.memEntries := rfl
@[simp] theorem consumeByte_ioEntries (b : Byte) : (consumeByte s b).ioEntries = s.ioEntries := rfl
@[simp] theorem consumeByte_awMem (b : Byte) : (consumeByte s b).awMem = s.awMem := rfl
@[simp] theorem consumeByte_awIo (b : Byte) : (consumeByte s b).awIo = s.awIo := rfl
@[simp] theorem consumeByte_target (b : Byte) : (consumeByte s b).target = s.target := rfl
@[simp] theorem consumeByte_regs (b : Byte) : (consumeByte s b).regs = s.regs.setPc s.regs.pcPlusOne := rfl
@[simp] theorem consumeByte_pstate (b : Byte) : (consumeByte s b).pstate = s.pstate := rfl
@[simp] theorem consumeByte_haltCause (b : Byte) : (consumeByte s b).haltCause = s.haltCause := rfl
@[simp] theorem consumeByte_fault (b : Byte) : (consumeByte s b).fault = s.fault := rfl
@[simp] theorem consumeByte_setupDone (b : Byte) : (consumeByte s b).setupDone = s.setupDone := rfl
@[simp] theorem consumeByte_memRef (b : Byte) : (consumeByte s b).memRef = s.memRef := rfl
@[simp] theorem consumeByte_ioRef (b : Byte) : (consumeByte s b).ioRef = s.ioRef := rfl
@[simp] theorem consumeByte_instrIndex (b : Byte) : (consumeByte s b).instrIndex = s.instrIndex := rfl
@[simp] theorem consumeByte_dbg (b : Byte) : (consumeByte s b).dbg = s.dbg := rfl
@[simp] theorem consumeByte_ibuf (b : Byte) : (consumeByte s b).ibuf = s.ibuf ++ [b] := rfl
@[simp] theorem consumeByte_decoded (b : Byte) : (consumeByte s b).decoded = s.decoded := rfl
@[simp] theorem consumeByte_lifecycle (b : Byte) : (consumeByte s b).lifecycle = s.lifecycle := rfl
@[simp] theorem consumeByte_dying (b : Byte) : (consumeByte s b).dying = s.dying := rfl
@[simp] theorem consumeByte_buildFailed (b : Byte) : (consumeByte s b).buildFailed = s.buildFailed := rfl
@[simp] theorem consumeByte_interval (b : Byte) : (consumeByte s b).interval = s.interval := rfl
@[simp] theorem consumeByte_periph (b : Byte) : (consumeByte s b).periph = s.periph := rfl
@[simp] theorem consumeByte_response (b : Byte) : (consumeByte s b).response = s.response := rfl
@[simp] theorem consumeByte_blocked (b : Byte) : (consumeByte s b).blocked = s.blocked := rfl
@[simp] theorem consumeByte_built (b : Byte) : (consumeByte s b).built = s.built := rfl
@[simp] theorem consumeByte_port (b : Byte) : (consumeByte s b).port = s.port := rfl
@[simp] theorem consumeByte_dbgAnswers (b : Byte) : (consumeByte s b).dbgAnswers = s.dbgAnswers := rfl
@[simp] theorem consumeByte_dbgCount (b : Byte) : (consumeByte s b).dbgCount = s.dbgCount := rfl

/-! ### `countInstruction` -/

@[simp] theorem countInstruction_devices : (countInstruction s).devices = s.devices := rfl
@[simp] theorem countInstruction_memEntries : (countInstruction s).memEntries = s.memEntries := rfl
@[simp] theorem countInstruction_ioEntries : (countInstruction s).ioEntries = s.ioEntries := rfl
@[simp] theorem countInstruction_awMem : (countInstruction s).awMem = s.awMem := rfl
@[simp] theorem countInstruction_awIo : (countInstruction s).awIo = s.awIo := rfl
@[simp] theorem countInstruction_target : (countInstruction s).target = s.target := rfl
@[simp] theorem countInstruction_regs : (countInstruction s).regs = s.regs := rfl
@[simp] theorem countInstruction_pstate : (countInstruction s).pstate = if s.pstate = .halted then .halted else .fetching := rfl
@[simp] theorem countInstruction_haltCause : (countInstruction s).haltCause = s.haltCause := rfl
@[simp] theorem countInstruction_fault : (countInstruction s).fault = s.fault := rfl
@[simp] theorem countInstruction_setupDone : (countInstruction s).setupDone = s.setupDone := rfl
@[simp] theorem countInstruction_memRef : (countInstruction s).memRef = s.memRef := rfl
@[simp] theorem countInstruction_ioRef : (countInstruction s).ioRef = s.ioRef := rfl
@[simp] theorem countInstruction_instrIndex : (countInstruction s).instrIndex = s.instrIndex + 1 := rfl
@[simp] theorem countInstruction_dbg : (countInstruction s).dbg = s.dbg := rfl
@[simp] theorem countInstruction_ibuf : (countInstruction s).ibuf = s.ibuf := rfl
@[simp] theorem countInstruction_decoded : (countInstruction s).decoded = s.decoded := rfl
@[simp] theorem countInstruction_lifecycle : (countInstruction s).lifecycle = s.lifecycle := rfl
@[simp] theorem countInstruction_dying : (countInstruction s).dying = s.dying := rfl
@[simp] theorem countInstruction_buildFailed : (countInstruction s).buildFailed = s.buildFailed := rfl
@[simp] theorem countInstruction_interval : (countInstruction s).interval = s.interval := rfl
@[simp] theorem countInstruction_periph : (countInstruction s).periph = s.periph := rfl
@[simp] theorem countInstruction_response : (countInstruction s).response = s.response := rfl
@[simp] theorem countInstruction_blocked : (countInstruction s).blocked = s.blocked := rfl
@[simp] theorem countInstruction_built : (countInstruction s).built = s.built := rfl
@[simp] theorem countInstruction_port : (countInstruction s).port = s.port := rfl
@[simp] theorem countInstruction_dbgAnswers : (countInstruction s).dbgAnswers = s.dbgAnswers := rfl
@[simp] theorem countInstruction_dbgCount : (countInstruction s).dbgCount = s.dbgCount := rfl

/-! ### `setDying` -/

@[simp] theorem setDying_devices : (setDying s).devices = s.devices := rfl
@[simp] theorem setDying_memEntries : (setDying s).memEntries = s.memEntries := rfl
@[simp] theorem setDying_ioEntries : (setDying s).ioEntries = s.ioEntries := rfl
@[simp] theorem setDying_awMem : (setDying s).awMem = s.awMem := rfl
@[simp] theorem setDying_awIo : (setDying s).awIo = s.awIo := rfl
@[simp] theorem setDying_target : (setDying s).target = s.target := rfl
@[simp] theorem setDying_regs : (setDying s).regs = s.regs := rfl
@[simp] theorem setDying_pstate : (setDying s).pstate = s.pstate := rfl
@[simp] theorem setDying_haltCause : (setDying s).haltCause = s.haltCause := rfl
@[simp] theorem setDying_fault : (setDying s).fault = s.fault := rfl
@[simp] theorem setDying_setupDone : (setDying s).setupDone = s.setupDone := rfl
@[simp] theorem setDying_memRef : (setDying s).memRef = s.memRef := rfl
@[simp] theorem setDying_ioRef : (setDying s).ioRef = s.ioRef := rfl
@[simp] theorem setDying_instrIndex : (setDying s).instrIndex = s.instrIndex := rfl
@[simp] theorem setDying_dbg : (setDying s).dbg = s.dbg := rfl
@[simp] theorem setDying_ibuf : (setDying s).ibuf = s.ibuf := rfl
@[simp] theorem setDying_decoded : (setDying s).decoded = s.decoded := rfl
@[simp] theorem setDying_lifecycle : (setDying s).lifecycle = s.lifecycle := rfl
@[simp] theorem setDying_dying : (setDying s).dying = true := rfl
@[simp] theorem setDying_buildFailed : (setDying s).buildFailed = s.buildFailed := rfl
@[simp] theorem setDying_interval : (setDying s).interval = s.interval := rfl
@[simp] theorem setDying_periph : (setDying s).periph = s.periph := rfl
@[simp] theorem setDying_response : (setDying s).response = s.response := rfl
@[simp] theorem setDying_blocked : (setDying s).blocked = s.blocked := rfl
@[simp] theorem setDying_built : (setDying s).built = s.built := rfl
@[simp] theorem setDying_port : (setDying s).port = s.port := rfl
@[simp] theorem setDying_dbgAnswers : (setDying s).dbgAnswers = s.dbgAnswers := rfl
@[simp] theorem setDying_dbgCount : (setDying s).dbgCount = s.dbgCount := rfl

/-! ### `clearDying` -/

@[simp] theorem clearDying_devices : (clearDying s).devices = s.devices := rfl
@[simp] theorem clearDying_memEntries : (clearDying s).memEntries = s.memEntries := rfl
@[simp] theorem clearDying_ioEntries : (clearDying s).ioEntries = s.ioEntries := rfl
@[simp] theorem clearDying_awMem : (clearDying s).awMem = s.awMem := rfl
@[simp] theorem clearDying_awIo : (clearDying s).awIo = s.awIo := rfl
@[simp] theorem clearDying_target : (clearDying s).target = s.target := rfl
@[simp] theorem clearDying_regs : (clearDying s).regs = s.regs := rfl
@[simp] theorem clearDying_pstate : (clearDying s).pstate = s.pstate := rfl
@[simp] theorem clearDying_haltCause : (clearDying s).haltCause = s.haltCause := rfl
@[simp] theorem clearDying_fault : (clearDying s).fault = s.fault := rfl
@[simp] theorem clearDying_setupDone : (clearDying s).setupDone = s.setupDone := rfl
@[simp] theorem clearDying_memRef : (clearDying s).memRef = s.memRef := rfl
@[simp] theorem clearDying_ioRef : (clearDying s).ioRef = s.ioRef := rfl
@[simp] theorem clearDying_instrIndex : (clearDying s).instrIndex = s.instrIndex := rfl
@[simp] theorem clearDying_dbg : (clearDying s).dbg = s.dbg := rfl
@[simp] theorem clearDying_ibuf : (clearDying s).ibuf = s.ibuf := rfl
@[simp] theorem clearDying_decoded : (clearDying s).decoded = s.decoded := rfl
@[simp] theorem clearDying_lifecycle : (clearDying s).lifecycle = s.lifecycle := rfl
@[simp] theorem clearDying_dying : (clearDying s).dying = false := rfl
@[simp] theorem clearDying_buildFailed : (clearDying s).buildFailed = s.buildFailed := rfl
@[simp] theorem clearDying_interval : (clearDying s).interval = s.interval := rfl
@[simp] theorem clearDying_periph : (clearDying s).periph = s.periph := rfl
@[simp] theorem clearDying_response : (clearDying s).response = s.response := rfl
@[simp] theorem clearDying_blocked : (clearDying s).blocked = s.blocked := rfl
@[simp] theorem clearDying_built : (clearDying s).built = s.built := rfl
@[simp] theorem clearDying_port : (clearDying s).port = s.port := rfl
@[simp] theorem clearDying_dbgAnswers : (clearDying s).dbgAnswers = s.dbgAnswers := rfl
@[simp] theorem clearDying_dbgCount : (clearDying s).dbgCount = s.dbgCount := rfl

/-! ### `startWorker` -/

@[simp] theorem startWorker_devices : (startWorker s).devices = s.devices := rfl
@[simp] theorem startWorker_memEntries : (startWorker s).memEntries = s.memEntries := rfl
@[simp] theorem startWorker_ioEntries : (startWorker s).ioEntries = s.ioEntries := rfl
@[simp] theorem startWorker_awMem : (startWorker s).awMem = s.awMem := rfl
@[simp] theorem startWorker_awIo : (startWorker s).awIo = s.awIo := rfl
@[simp] theorem startWorker_target : (startWorker s).target = s.target := rfl
@[simp] theorem startWorker_regs : (startWorker s).regs = s.regs := rfl
@[simp] theorem startWorker_pstate : (startWorker s).pstate = s.pstate := rfl
@[simp] theorem startWorker_haltCause : (startWorker s).haltCause = s.haltCause := rfl
@[simp] theorem startWorker_fault : (startWorker s).fault = s.fault := rfl
@[simp] theorem startWorker_setupDone : (startWorker s).setupDone = s.setupDone := rfl
@[simp] theorem startWorker_memRef : (startWorker s).memRef = s.memRef := rfl
@[simp] theorem startWorker_ioRef : (startWorker s).ioRef = s.ioRef := rfl
@[simp] theorem startWorker_instrIndex : (startWorker s).instrIndex = s.instrIndex := rfl
@[simp] theorem startWorker_dbg : (startWorker s).dbg = s.dbg := rfl
@[simp] theorem startWorker_ibuf : (startWorker s).ibuf = s.ibuf := rfl
@[simp] theorem startWorker_decoded : (startWorker s).decoded = s.decoded := rfl
@[simp] theorem startWorker_lifecycle : (startWorker s).lifecycle = .running := rfl
@[simp] theorem startWorker_dying : (startWorker s).dying = false := rfl
@[simp] theorem startWorker_buildFailed : (startWorker s).buildFailed = s.buildFailed := rfl
@[simp] theorem startWorker_interval : (startWorker s).interval = s.interval := rfl
@[simp] theorem startWorker_periph : (startWorker s).periph = s.periph := rfl
@[simp] theorem startWorker_response : (startWorker s).response = s.response := rfl
@[simp] theorem startWorker_blocked : (startWorker s).blocked = s.blocked := rfl
@[simp] theorem startWorker_built : (startWorker s).built = s.built := rfl
@[simp] theorem startWorker_port : (startWorker s).port = s.port := rfl
@[simp] theorem startWorker_dbgAnswers : (startWorker s).dbgAnswers = s.dbgAnswers := rfl
@[simp] theorem startWorker_dbgCount : (startWorker s).dbgCount = s.dbgCount := rfl

/-! ### `ticked` -/

@[simp] theorem ticked_devices : (ticked s).devices = s.devices := rfl
@[simp] theorem ticked_memEntries : (ticked s).memEntries = s.memEntries := rfl
@[simp] theorem ticked_ioEntries : (ticked s).ioEntries = s.ioEntries := rfl
@[simp] theorem ticked_awMem : (ticked s).awMem = s.awMem := rfl
@[simp] theorem ticked_awIo : (ticked s).awIo = s.awIo := rfl
@[simp] theorem ticked_target : (ticked s).target = s.target := rfl
@[simp] theorem ticked_regs : (ticked s).regs = s.regs := rfl
@[simp] theorem ticked_pstate : (ticked s).pstate = s.pstate := rfl
@[simp] theorem ticked_haltCause : (ticked s).haltCause = s.haltCause := rfl
@[simp] theorem ticked_fault : (ticked s).fault = s.fault := rfl
@[simp] theorem ticked_setupDone : (ticked s).setupDone = s.setupDone := rfl
@[simp] theorem ticked_memRef : (ticked s).memRef = s.memRef := rfl
@[simp] theorem ticked_ioRef : (ticked s).ioRef = s.ioRef := rfl
@[simp] theorem ticked_instrIndex : (ticked s).instrIndex = s.instrIndex := rfl
@[simp] theorem ticked_dbg : (ticked s).dbg = s.dbg := rfl
@[simp] theorem ticked_ibuf : (ticked s).ibuf = s.ibuf := rfl
@[simp] theorem ticked_decoded : (ticked s).decoded = s.decoded := rfl
@[simp] theorem ticked_lifecycle : (ticked s).lifecycle = s.lifecycle := rfl
@[simp] theorem ticked_dying : (ticked s).dying = s.dying := rfl
@[simp] theorem ticked_buildFailed : (ticked s).buildFailed = s.buildFailed := rfl
@[simp] theorem ticked_interval : (ticked s).interval = s.interval := rfl
@[simp] theorem ticked_periph : (ticked s).periph = s.periph.map tickOne := rfl
@[simp] theorem ticked_response : (ticked s).response = s.response := rfl
@[simp] theorem ticked_blocked : (ticked s).blocked = s.blocked := rfl
@[simp] theorem ticked_built : (ticked s).built = s.built := rfl
@[simp] theorem ticked_port : (ticked s).port = s.port := rfl
@[simp] theorem ticked_dbgAnswers : (ticked s).dbgAnswers = s.dbgAnswers := rfl
@[simp] theorem ticked_dbgCount : (ticked s).dbgCount = s.dbgCount := rfl

/-! ### `addEntry .mem` -/

@[simp] theorem addEntry_mem_devices (e : RouterEntry) : (s.addEntry .mem e).devices = s.devices := rfl
@[simp] theorem addEntry_mem_memEntries (e : RouterEntry) : (s.addEntry .mem e).memEntries = s.memEntries ++ [e] := rfl
@[simp] theorem addEntry_mem_ioEntries (e : RouterEntry) : (s.addEntry .mem e).ioEntries = s.ioEntries := rfl
@[simp] theorem addEntry_mem_awMem (e : RouterEntry) : (s.addEntry .mem e).awMem = s.awMem := rfl
@[simp] theorem addEntry_mem_awIo (e : RouterEntry) : (s.addEntry .mem e).awIo = s.awIo := rfl
@[simp] theorem addEntry_mem_target (e : RouterEntry) : (s.addEntry .mem e).target = s.target := rfl
@[simp] theorem addEntry_mem_regs (e : RouterEntry) : (s.addEntry .mem e).regs = s.regs := rfl
@[simp] theorem addEntry_mem_pstate (e : RouterEntry) : (s.addEntry .mem e).pstate = s.pstate := rfl
@[simp] theorem addEntry_mem_haltCause (e : RouterEntry) : (s.addEntry .mem e).haltCause = s.haltCause := rfl
@[simp] theorem addEntry_mem_fault (e : RouterEntry) : (s.addEntry .mem e).fault = s.fault := rfl
@[simp] theorem addEntry_mem_setupDone (e : RouterEntry) : (s.addEntry .mem e).setupDone = s.setupDone := rfl
@[simp] theorem addEntry_mem_memRef (e : RouterEntry) : (s.addEntry .mem e).memRef = s.memRef := rfl
@[simp] theorem addEntry_mem_ioRef (e : RouterEntry) : (s.addEntry .mem e).ioRef = s.ioRef := rfl
@[simp] theorem addEntry_mem_instrIndex (e : RouterEntry) : (s.addEntry .mem e).instrIndex = s.instrIndex := rfl
@[simp] theorem addEntry_mem_dbg (e : RouterEntry) : (s.addEntry .mem e).dbg = s.dbg := rfl
@[simp] theorem addEntry_mem_ibuf (e : RouterEntry) : (s.addEntry .mem e).ibuf = s.ibuf := rfl
@[simp] theorem addEntry_mem_decoded (e : RouterEntry) : (s.addEntry .mem e).decoded = s.decoded := rfl
@[simp] theorem addEntry_mem_lifecycle (e : RouterEntry) : (s.addEntry .mem e).lifecycle = s.lifecycle := rfl
@[simp] theorem addEntry_mem_dying (e : RouterEntry) : (s.addEntry .mem e).dying = s.dying := rfl
@[simp] theorem addEntry_mem_buildFailed (e : RouterEntry) : (s.addEntry .mem e).buildFailed = s.buildFailed := rfl
@[simp] theorem addEntry_mem_interval (e : RouterEntry) : (s.addEntry .mem e).interval = s.interval := rfl
@[simp] theorem addEntry_mem_periph (e : RouterEntry) : (s.addEntry .mem e).periph = s.periph := rfl
@[simp] theorem addEntry_mem_response (e : RouterEntry) : (s.addEntry .mem e).response = s.response := rfl
@[simp] theorem addEntry_mem_blocked (e : RouterEntry) : (s.addEntry .mem e).blocked = s.blocked := rfl
@[simp] theorem addEntry_mem_built (e : RouterEntry) : (s.addEntry .mem e).built = s.built := rfl
@[simp] theorem addEntry_mem_port (e : RouterEntry) : (s.addEntry .mem e).port = s.port := rfl
@[simp] theorem addEntry_mem_dbgAnswers (e : RouterEntry) : (s.addEntry .mem e).dbgAnswers = s.dbgAnswers := rfl
@[simp] theorem addEntry_mem_dbgCount (e : RouterEntry) : (s.addEntry .mem e).dbgCount = s.dbgCount := rfl

/-! ### `addEntry .io` -/

@[simp] theorem addEntry_io_devices (e : RouterEntry) : (s.addEntry .io e).devices = s.devices := rfl
@[simp] theorem addEntry_io_memEntries (e : RouterEntry) : (s.addEntry .io e).memEntries = s.memEntries := rfl
@[simp] theorem addEntry_io_ioEntries (e : RouterEntry) : (s.addEntry .io e).ioEntries = s.ioEntries ++ [e] := rfl
@[simp] theorem addEntry_io_awMem (e : RouterEntry) : (s.addEntry .io e).awMem = s.awMem := rfl
@[simp] theorem addEntry_io_awIo (e : RouterEntry) : (s.addEntry .io e).awIo = s.awIo := rfl
@[simp] theorem addEntry_io_target (e : RouterEntry) : (s.addEntry .io e).target = s.target := rfl
@[simp] theorem addEntry_io_regs (e : RouterEntry) : (s.addEntry .io e).regs = s.regs := rfl
@[simp] theorem addEntry_io_pstate (e : RouterEntry) : (s.addEntry .io e).pstate = s.pstate := rfl
@[simp] theorem addEntry_io_haltCause (e : RouterEntry) : (s.addEntry .io e).haltCause = s.haltCause := rfl
@[simp] theorem addEntry_io_fault (e : RouterEntry) : (s.addEntry .io e).fault = s.fault := rfl
@[simp] theorem addEntry_io_setupDone (e : RouterEntry) : (s.addEntry .io e).setupDone = s.setupDone := rfl
@[simp] theorem addEntry_io_memRef (e : RouterEntry) : (s.addEntry .io e).memRef = s.memRef := rfl
@[simp] theorem addEntry_io_ioRef (e : RouterEntry) : (s.addEntry .io e).ioRef = s.ioRef := rfl
@[simp] theorem addEntry_io_instrIndex (e : RouterEntry) : (s.addEntry .io e).instrIndex = s.instrIndex := rfl
@[simp] theorem addEntry_io_dbg (e : RouterEntry) : (s.addEntry .io e).dbg = s.dbg := rfl
@[simp] theorem addEntry_io_ibuf (e : RouterEntry) : (s.addEntry .io e).ibuf = s.ibuf := rfl
@[simp] theorem addEntry_io_decoded (e : RouterEntry) : (s.addEntry .io e).decoded = s.decoded := rfl
@[simp] theorem addEntry_io_lifecycle (e : RouterEntry) : (s.addEntry .io e).lifecycle = s.lifecycle := rfl
@[simp] theorem addEntry_io_dying (e : RouterEntry) : (s.addEntry .io e).dying = s.dying := rfl
@[simp] theorem addEntry_io_buildFailed (e : RouterEntry) : (s.addEntry .io e).buildFailed = s.buildFailed := rfl
@[simp] theorem addEntry_io_interval (e : RouterEntry) : (s.addEntry .io e).interval = s.interval := rfl
@[simp] theorem addEntry_io_periph (e : RouterEntry) : (s.addEntry .io e).periph = s.periph := rfl
@[simp] theorem addEntry_io_response (e : RouterEntry) : (s.addEntry .io e).response = s.response := rfl
@[simp] theorem addEntry_io_blocked (e : RouterEntry) : (s.addEntry .io e).blocked = s.blocked := rfl
@[simp] theorem addEntry_io_built (e : RouterEntry) : (s.addEntry .io e).built = s.built := rfl
@[simp] theorem addEntry_io_port (e : RouterEntry) : (s.addEntry .io e).port = s.port := rfl
@[simp] theorem addEntry_io_dbgAnswers (e : RouterEntry) : (s.addEntry .io e).dbgAnswers = s.dbgAnswers := rfl
@[simp] theorem addEntry_io_dbgCount (e : RouterEntry) : (s.addEntry .io e).dbgCount = s.dbgCount := rfl

end Sys2Proof.Machine
end

