-- ==== Sys2Proof/Laws/Access.lean ====
section
/-! SUPPORT. What the Router, the Device commands and registration can do: one lemma per shared operation. -/

namespace Sys2Proof.Machine

/-! ## Lookup and routing -/

/-- What `lookup` finds is an entry of the Router that owns the address. -/
theorem lookup_some {l : List RouterEntry} {a : Nat} {e : RouterEntry} (h : lookup l a = some e) :
    e ∈ l ∧ e.base ≤ a ∧ a < e.base + e.size := by
  refine ⟨List.mem_of_find?_eq_some h, ?_⟩
  have := List.find?_some h
  simpa [RouterEntry.owns] using this

/-- Where `lookup` finds nothing, no entry owns the address. -/
theorem lookup_none {l : List RouterEntry} {a : Nat} (h : lookup l a = none) :
    ∀ e ∈ l, ¬(e.base ≤ a ∧ a < e.base + e.size) := by
  intro e he
  have := List.find?_eq_none.1 h e he
  simpa [RouterEntry.owns] using this

/-- A successful routing: the owning entry, the whole span inside it, and the Device at the local offset (R151). -/
theorem route_ok {s : State} {sp : Space} {a : Nat} {w : Width} {t : Routed} (h : route s sp a w = .ok t) :
    ∃ e, lookup (s.entries sp) a = some e ∧ a + w.bytes ≤ e.base + e.size ∧
      s.devices[e.dev]? = some t.device ∧ t.dev = e.dev ∧ t.off = a - e.base ∧ a < 2 ^ s.addressWidth sp := by
  unfold route at h
  split at h
  · cases h
  · next hf =>
    split at h
    · cases h
    · next e he =>
      split at h
      · cases h
      · next hs =>
        split at h
        · cases h
        · next d hd =>
          cases h
          exact ⟨e, he, by omega, hd, rfl, rfl, by simpa [addressFits] using hf⟩

/-- The routing of an address whose span lies in its entry (R151). -/
theorem route_eq_ok {s : State} {sp : Space} {a : Nat} {w : Width} {e : RouterEntry} {d : Device}
    (ha : a < 2 ^ s.addressWidth sp) (he : lookup (s.entries sp) a = some e)
    (hs : a + w.bytes ≤ e.base + e.size) (hd : s.devices[e.dev]? = some d) :
    route s sp a w = .ok { dev := e.dev, device := d, off := a - e.base } := by
  unfold route
  rw [if_neg (by simpa [addressFits] using ha)]
  simp only [he, hd]
  rw [if_neg (by omega)]

/-- The only condition the Router itself raises is `Unmapped`, with the address and the ranges (R151, R281). -/
theorem route_raise {s : State} {sp : Space} {a : Nat} {w : Width} {c : Condition} (h : route s sp a w = .raise c) :
    c = .unmapped a (s.ranges sp) := by
  unfold route at h
  split at h
  · cases h
  · split at h
    · cases h; rfl
    · split at h
      · cases h; rfl
      · split at h <;> cases h

/-- A Router write that succeeds replaces the one Device the address is routed to (R151). -/
theorem routerWrite_ok {s s' : State} {sp : Space} {a : Nat} {w : Width} {v : Word}
    (h : routerWrite s sp a w v = .ok s') :
    ∃ t d, route s sp a w = .ok t ∧ t.device.write t.off w v = .ok d ∧ s' = s.setDevice t.dev d := by
  unfold routerWrite at h
  split at h
  · cases h
  · cases h
  · next t ht =>
    split at h
    · cases h
    · next d hd => cases h; exact ⟨t, d, ht, hd, rfl⟩

/-- A Device command's write that succeeds replaces the Device the command names. -/
theorem deviceWrite_ok {s s' : State} {dev off : Nat} {w : Width} {v : Word} (h : deviceWrite s dev off w v = .ok s') :
    ∃ d d', s.devices[dev]? = some d ∧ d.write off w v = .ok d' ∧ s' = s.setDevice dev d' := by
  unfold deviceWrite at h
  split at h
  · cases h
  · next d hd =>
    split at h
    · cases h
    · next d' hd' => cases h; exact ⟨d, d', hd, hd', rfl⟩

/-- A Device write that succeeds changes the storage alone, inside the span (R121). -/
theorem Device.write_ok {d d' : Device} {off : Nat} {w : Width} {v : Word} (h : d.write off w v = .ok d') :
    d.policy = .readWrite ∧ off + w.bytes ≤ d.size ∧
      d' = { d with storage := d.storage.writeSpan off (bytesOfValue d.order w.bytes v) } := by
  rcases d.write_cases off w v with ⟨_, h'⟩ | ⟨_, _, h'⟩ | ⟨hp, hs, h'⟩
  · rw [h'] at h; cases h
  · rw [h'] at h; cases h
  · rw [h'] at h; cases h; exact ⟨hp, hs, rfl⟩

/-- A successful registration (R152): what held before it, the entry added and the Device's base. -/
theorem register_ok {s s' : State} {sp : Space} {dev base size : Nat} (h : register s sp dev base size = .ok s') :
    s.lifecycle = .idle ∧ rangeFits base size (s.addressWidth sp) = true ∧ s.isRegistered dev = false ∧
      (∀ e ∈ s.entries sp, e.overlaps base size = false) ∧
      ∃ d, s.devices[dev]? = some d ∧
        s' = (s.addEntry sp { dev, base, size }).setDevice dev { d with base } := by
  unfold register at h
  split at h
  · cases h
  · next hl =>
    split at h
    · cases h
    · next hr =>
      split at h
      · cases h
      · next d hd =>
        split at h
        · cases h
        · next hreg =>
          split at h
          · cases h
          · next hf =>
            cases h
            refine ⟨by simpa using hl, by simpa using hr, by simpa using hreg, fun e he => ?_, d, hd, rfl⟩
            simpa using List.find?_eq_none.1 hf e he

/-- The only condition registration raises (R152, R287). -/
theorem register_raise {s : State} {sp : Space} {dev base size : Nat} {c : Condition}
    (h : register s sp dev base size = .raise c) :
    ∃ e, (s.entries sp).find? (fun e => e.overlaps base size) = some e ∧
      c = .overlappingRegistration (base, size) (e.base, e.size) := by
  unfold register at h
  split at h
  · cases h
  · split at h
    · cases h
    · split at h
      · cases h
      · split at h
        · cases h
        · split at h
          · next e he => cases h; exact ⟨e, he, rfl⟩
          · cases h

/-! ## Commands -/

/-- A command in a phase in which the controller may touch the block. -/
theorem whenQuiet_quiet {s : State} {k : Host.Outcome State Fault Refusal} (h : s.quiet = true) : whenQuiet s k = k :=
  by simp [whenQuiet, h]

/-- A command while the worker owns the block (R299). -/
theorem whenQuiet_busy {s : State} {k : Host.Outcome State Fault Refusal} (h : s.quiet = false) :
    whenQuiet s k = .refused .workerOwnsBlock := by simp [whenQuiet, h]

/-- A command that goes on was issued in a quiet phase. -/
theorem whenQuiet_next {s t : State} {k : Host.Outcome State Fault Refusal} (h : whenQuiet s k = .next t) :
    s.quiet = true ∧ k = .next t := by
  unfold whenQuiet at h
  split at h
  · next hq => exact ⟨hq, h⟩
  · cases h

/-- A read command that goes on changes the response alone (R67). -/
theorem answerRead_next {s t : State} {w : Width} {a : Access Word} (h : answerRead s w a = .next t) :
    (∃ v, a = .ok v ∧ t = s.answer (.data w v)) ∨ ∃ c, a = .raise c ∧ t = s.report c := by
  cases a with
  | ok v => cases h; exact Or.inl ⟨v, rfl, rfl⟩
  | raise c => cases h; exact Or.inr ⟨c, rfl, rfl⟩
  | refuse r => cases h

/-- A writing command that goes on took effect, or raised and changed the response alone (R66, R295). -/
theorem answerWrite_next {s t : State} {a : Access State} (h : answerWrite s a = .next t) :
    (∃ s', a = .ok s' ∧ t = s'.answer .none) ∨ ∃ c, a = .raise c ∧ t = s.report c := by
  cases a with
  | ok v => cases h; exact Or.inl ⟨v, rfl, rfl⟩
  | raise c => cases h; exact Or.inr ⟨c, rfl, rfl⟩
  | refuse r => cases h

/-- A `DLOAD` that succeeds (R138). -/
theorem loadRom_ok {s s' : State} {dev : Nat} {bytes : List Byte} (h : loadRom s dev bytes = .ok s') :
    s.lifecycle = .idle ∧ ∃ d d', s.devices[dev]? = some d ∧ d.kind = .rom ∧ d.loaded = false ∧
      d.load bytes = .ok d' ∧ s' = s.setDevice dev { d' with loaded := true } := by
  unfold loadRom at h
  split at h
  · cases h
  · next d hd =>
    split at h
    · cases h
    · next hk =>
      split at h
      · cases h
      · next hl =>
        split at h
        · cases h
        · next hload =>
          split at h
          · cases h
          · next d' hd' =>
            cases h
            exact ⟨by simpa using hl, d, d', hd, by simpa using hk, by simpa using hload, hd', rfl⟩

end Sys2Proof.Machine
end

