-- ==== Sys2Proof/Laws/Build.lean ====
section
/-! SUPPORT. The loop of `BUILD` over the layout (spec/44_engine.md R250): what it has made of the elements it has gone
through, the next element that goes through, and the two ways an element fails. -/

namespace Sys2Proof.Machine

/-! ## The entries of a layout -/

/-- An entry of the layout is an element's, under the element's number. -/
theorem mem_layoutEntries {config : List ConfigEntry} {sp : Space} {e : RouterEntry} :
    e ∈ layoutEntries config sp ↔
      ∃ k c, config[k]? = some c ∧ c.kind.space = sp ∧ e = { dev := k, base := c.base, size := c.size } := by
  simp only [layoutEntries, List.mem_map, List.mem_filter, decide_eq_true_eq, Prod.exists, List.mk_mem_zipIdx_iff_getElem?]
  constructor
  · rintro ⟨c, k, ⟨h, hs⟩, rfl⟩
    exact ⟨k, c, h, hs, rfl⟩
  · rintro ⟨k, c, h, hs, rfl⟩
    exact ⟨c, k, ⟨h, hs⟩, rfl⟩

/-- One element more. -/
theorem layoutEntries_append (config : List ConfigEntry) (c : ConfigEntry) (sp : Space) :
    layoutEntries (config ++ [c]) sp =
      layoutEntries config sp ++
        if c.kind.space = sp then [{ dev := config.length, base := c.base, size := c.size }] else [] := by
  by_cases h : c.kind.space = sp <;> simp [layoutEntries, List.zipIdx_append, h]

/-! ## The loop -/

/-- What the loop has made of the elements it has gone through, from the state in which it began. -/
structure LoopDone (s₀ s : State) (before : List ConfigEntry) : Prop where
  frame : s =
    { s₀ with
      devices := s.devices, memEntries := layoutEntries before .mem, ioEntries := layoutEntries before .io }
  length : s.devices.length = before.length
  elements : ∀ k c, before[k]? = some c → s.holdsElement k c

/-- The entries of a Router after the elements gone through. -/
theorem LoopDone.entries {s₀ s : State} {before : List ConfigEntry} (h : LoopDone s₀ s before) (sp : Space) :
    s.entries sp = layoutEntries before sp := by
  rw [h.frame]; cases sp <;> rfl

/-- The Device made of an element whose initial contents fit it (R250, R321). -/
theorem loadInitial_fit {c : ConfigEntry} (hf : contentsFit c) :
    ∃ d, loadInitial c (newDevice c) = .ok d ∧ d.kind = c.kind ∧ d.base = c.base ∧ d.size = c.size ∧
      d.order = c.order ∧ d.policy = (if c.kind = .rom then .readOnly else .readWrite) ∧
      d.loaded = (decide (c.kind = .rom) && c.initialContents.isSome) ∧ ∀ j, d.storage.read j = layoutByte c j := by
  have hp : policyOf c.kind = if c.kind = .rom then .readOnly else .readWrite := by cases c.kind <;> rfl
  have hw : (initialStorage c.init).wf := Memory.writeSpan_wf (Memory.empty_wf _) _ _
  have hr : ∀ j, (initialStorage c.init).read j = (c.init.bytes[j]?).getD c.init.fill := by
    intro j
    rw [initialStorage, Memory.read_writeSpan (Memory.empty_wf _)]
    by_cases h : j < c.init.bytes.length
    · simp [h]
    · simp [h, Memory.read, readCell]
  cases hc : c.initialContents with
  | none =>
    refine ⟨newDevice c, by simp [loadInitial, hc], rfl, rfl, rfl, rfl, hp, by simp [newDevice], fun j => ?_⟩
    simp [newDevice, hr, layoutByte, hc]
  | some l =>
    have hl : ¬(newDevice c).size < l.length := by
      simp only [contentsFit, hc, Option.getD_some] at hf
      exact Nat.not_lt.2 hf
    rcases (newDevice c).load_cases l with ⟨h, _⟩ | ⟨_, h⟩
    · exact absurd h hl
    · have hb : ∀ j, ((newDevice c).storage.writeSpan 0 l).read j = layoutByte c j := by
        intro j
        rw [newDevice, Memory.read_writeSpan hw]
        by_cases hj : j < l.length
        · simp [hj, layoutByte, hc]
        · simp [hj, hr, layoutByte, hc]
      refine ⟨{ newDevice c with storage := (newDevice c).storage.writeSpan 0 l, loaded := decide (c.kind = .rom) }, ?_,
        rfl, rfl, rfl, rfl, hp, by simp, hb⟩
      by_cases hk : c.kind = .rom
      · simp only [loadInitial, hc, h, hk, if_true, decide_true]
      · simp only [loadInitial, hc, h, hk, if_false, decide_false]
        rfl

/-- The Devices of the elements gone through stay what they are when Devices are appended. -/
theorem holdsElement_append {s t : State} {ds : List Device} {k : Nat} {c : ConfigEntry}
    (h : s.holdsElement k c) (ht : t.devices = s.devices ++ ds) : t.holdsElement k c := by
  obtain ⟨d, hd, hrest⟩ := h
  have hk : k < s.devices.length := (List.getElem?_eq_some_iff.1 hd).1
  exact ⟨d, by rw [ht, List.getElem?_append_left hk]; exact hd, hrest⟩

/-- The registration of the next element, as `Register` sees it (R152, R250). -/
theorem register_next {s₀ s : State} {before : List ConfigEntry} (h : LoopDone s₀ s before)
    (hi : s₀.lifecycle = .idle) {c : ConfigEntry} (hw : c.wf s₀.awMem s₀.awIo = true) (d : Device) :
    register (s.addDevice d) c.kind.space s.devices.length c.base c.size =
      match (layoutEntries before c.kind.space).find? fun e => e.overlaps c.base c.size with
      | some e => .raise (.overlappingRegistration (c.base, c.size) (e.base, e.size))
      | none =>
        .ok (((s.addDevice d).addEntry c.kind.space { dev := s.devices.length, base := c.base, size := c.size }).setDevice
          s.devices.length { d with base := c.base }) := by
  have h1 : s.lifecycle = .idle := by rw [h.frame]; exact hi
  have h2 : rangeFits c.base c.size ((s.addDevice d).addressWidth c.kind.space) = true := by
    have : (s.addDevice d).addressWidth c.kind.space = c.kind.space.width s₀.awMem s₀.awIo := by
      rw [h.frame]; cases c.kind.space <;> rfl
    rw [this]
    simp only [ConfigEntry.wf, Bool.and_eq_true] at hw
    exact hw.1
  have h3 : (s.addDevice d).isRegistered s.devices.length = false := by
    have hm : ∀ sp, ∀ e ∈ layoutEntries before sp, e.dev ≠ s.devices.length := by
      intro sp e he hd
      obtain ⟨k, c', hk, _, rfl⟩ := mem_layoutEntries.1 he
      have := (List.getElem?_eq_some_iff.1 hk).1
      have := h.length
      simp at hd
      omega
    have e1 : (s.addDevice d).memEntries = layoutEntries before .mem := by rw [h.frame]; rfl
    have e2 : (s.addDevice d).ioEntries = layoutEntries before .io := by rw [h.frame]; rfl
    simp only [State.isRegistered, e1, e2, Bool.or_eq_false_iff, List.any_eq_false, beq_iff_eq]
    exact ⟨hm .mem, hm .io⟩
  have h4 : (s.addDevice d).entries c.kind.space = layoutEntries before c.kind.space := by
    rw [← h.entries]; cases c.kind.space <;> rfl
  cases hq : (layoutEntries before c.kind.space).find? fun e => e.overlaps c.base c.size <;>
    simp [register, h1, h2, h3, h4, hq]

/-- An element that fits and overlaps none before it goes through (R250). -/
theorem buildLoop_step {s₀ s : State} {before : List ConfigEntry} (h : LoopDone s₀ s before)
    (hi : s₀.lifecycle = .idle) {c : ConfigEntry} (hw : c.wf s₀.awMem s₀.awIo = true) (hf : contentsFit c)
    (hc : ∀ c' ∈ before, compatibleElements c' c) :
    ∃ s', LoopDone s₀ s' (before ++ [c]) ∧ ∀ rest, buildLoop (c :: rest) s = buildLoop rest s' := by
  obtain ⟨d, hd, hk, hb, hrest⟩ := loadInitial_fit hf
  have hfind : ((layoutEntries before c.kind.space).find? fun e => e.overlaps c.base c.size) = none := by
    refine List.find?_eq_none.2 fun e he => ?_
    obtain ⟨k, c', hk', hs, rfl⟩ := mem_layoutEntries.1 he
    have := hc c' (List.mem_of_getElem? hk') hs
    simp only [RouterEntry.overlaps, Bool.and_eq_true, decide_eq_true_eq]
    omega
  have hreg := register_next h hi hw d
  rw [hfind] at hreg
  refine ⟨((s.addDevice d).addEntry c.kind.space
      { dev := s.devices.length, base := c.base, size := c.size }).setDevice s.devices.length { d with base := c.base },
    ?_, fun rest => by simp only [buildLoop, hd, hreg]⟩
  have hdev : (((s.addDevice d).addEntry c.kind.space
      { dev := s.devices.length, base := c.base, size := c.size }).setDevice s.devices.length
        { d with base := c.base }).devices = s.devices ++ [d] := by
    have : { d with base := c.base } = d := by rw [← hb]
    rw [this]
    cases c.kind.space <;> simp [State.setDevice, State.addEntry, State.addDevice]
  refine ⟨?_, ?_, ?_⟩
  · have hfr := h.frame
    have hlen := h.length
    rw [layoutEntries_append, layoutEntries_append]
    rw [hfr]
    cases hsp : c.kind.space <;> simp [State.setDevice, State.addEntry, State.addDevice, ← hlen]
  · rw [hdev]; simp [h.length]
  · intro k c' hk'
    by_cases hlt : k < before.length
    · rw [List.getElem?_append_left hlt] at hk'
      exact holdsElement_append (h.elements k c' hk') hdev
    · have hl := (List.getElem?_eq_some_iff.1 hk').1
      simp at hl
      have hke : k = before.length := by omega
      subst hke
      rw [List.getElem?_append_right (le_refl _)] at hk'
      simp at hk'
      subst hk'
      refine ⟨d, ?_, hk, hb, hrest⟩
      rw [hdev, ← h.length]
      simp

/-- Elements that fit and do not overlap go through (R250). -/
theorem buildLoop_elements {s₀ : State} (hi : s₀.lifecycle = .idle) (l : List ConfigEntry) :
    ∀ {s : State} {before : List ConfigEntry}, LoopDone s₀ s before →
      (∀ c ∈ l, c.wf s₀.awMem s₀.awIo = true) → (∀ c ∈ l, contentsFit c) →
      (before ++ l).Pairwise compatibleElements →
      ∃ s', LoopDone s₀ s' (before ++ l) ∧ ∀ rest, buildLoop (l ++ rest) s = buildLoop rest s' := by
  induction l with
  | nil => exact fun {s _} h _ _ _ => ⟨s, by simpa using h, fun rest => rfl⟩
  | cons c l ih =>
    intro s before h hw hf hp
    obtain ⟨s₁, h₁, hl₁⟩ := buildLoop_step h hi (hw c (by simp)) (hf c (by simp))
      fun c' hc' => (List.pairwise_append.1 hp).2.2 c' hc' c (by simp)
    obtain ⟨s₂, h₂, hl₂⟩ := ih h₁ (fun c' hc' => hw c' (by simp [hc'])) (fun c' hc' => hf c' (by simp [hc']))
      (by simpa using hp)
    exact ⟨s₂, by simpa using h₂, fun rest => by rw [List.cons_append, hl₁, hl₂]⟩

/-- An element whose initial contents are longer than its Device fails the build (R138, R250, R296). -/
theorem buildLoop_tooLong {c : ConfigEntry} {l : List Byte} (hc : c.initialContents = some l) (hl : c.size < l.length)
    (rest : List ConfigEntry) (s : State) :
    buildLoop (c :: rest) s =
      .ok ({ s.addDevice (newDevice c) with buildFailed := true }, some (.outOfRange 0 c.size (some (0, l.length)))) := by
  rcases (newDevice c).load_cases l with ⟨_, h⟩ | ⟨h, _⟩
  · simp only [buildLoop, loadInitial, hc, h]; rfl
  · exact absurd (show l.length ≤ c.size from h) (by omega)

/-- An element whose range overlaps an entry fails the build, and the first such entry is reported (R152, R250, R296). -/
theorem buildLoop_overlap {s₀ s : State} {before : List ConfigEntry} (h : LoopDone s₀ s before)
    (hi : s₀.lifecycle = .idle) {c : ConfigEntry} (hw : c.wf s₀.awMem s₀.awIo = true) (hf : contentsFit c)
    {l₁ l₂ : List RouterEntry} {e : RouterEntry} (hl : layoutEntries before c.kind.space = l₁ ++ e :: l₂)
    (h1 : ∀ e' ∈ l₁, e'.overlaps c.base c.size = false) (h2 : e.overlaps c.base c.size = true)
    (rest : List ConfigEntry) :
    ∃ d, buildLoop (c :: rest) s =
      .ok ({ s.addDevice d with buildFailed := true },
        some (.overlappingRegistration (c.base, c.size) (e.base, e.size))) := by
  obtain ⟨d, hd, _⟩ := loadInitial_fit hf
  have hreg := register_next h hi hw d
  have hfind : ((layoutEntries before c.kind.space).find? fun e => e.overlaps c.base c.size) = some e := by
    rw [hl, List.find?_append, List.find?_eq_none.2 fun x hx => by simp [h1 x hx]]
    simp [h2]
  rw [hfind] at hreg
  exact ⟨d, by simp only [buildLoop, hd, hreg]⟩

end Sys2Proof.Machine
end

