-- ==== Sys2Proof/Laws/Commands.lean ====
section
/-! SUPPORT. The access commands by space and width, each as its shared operation, and the bytes of an access in the
terms of the statements (spec/20_memory.md R61). -/

namespace Sys2Proof.Machine

/-! ## The sixteen Router commands and the sixteen Device commands -/

/-- The low bits of a value that an access of a width carries (R90). -/
def lowBits (w : Width) (v : Word) : Word := BitVec.ofNat 64 (v.toNat % 2 ^ w.bits)

/-- The operand of an 8-bit write. -/
theorem lowBits_w8 (v : Word) : (BitVec.setWidth 8 v).setWidth 64 = lowBits .w8 v := by
  apply BitVec.eq_of_toNat_eq; simp [lowBits, Width.bits]

/-- The operand of a 16-bit write. -/
theorem lowBits_w16 (v : Word) : (BitVec.setWidth 16 v).setWidth 64 = lowBits .w16 v := by
  apply BitVec.eq_of_toNat_eq; simp [lowBits, Width.bits]

/-- The operand of a 32-bit write. -/
theorem lowBits_w32 (v : Word) : (BitVec.setWidth 32 v).setWidth 64 = lowBits .w32 v := by
  apply BitVec.eq_of_toNat_eq; simp [lowBits, Width.bits]

/-- The operand of a 64-bit write. -/
theorem lowBits_w64 (v : Word) : lowBits .w64 v = v := by
  apply BitVec.eq_of_toNat_eq
  have := v.isLt
  simp [lowBits, Width.bits]
  omega

/-- Every Router read is `RouterAccess` (R154 to R157, R162 to R165). -/
theorem exec_routerRead (sp : Space) (w : Width) (a : Nat) (s : State) :
    exec (.routerRead sp w a) s = whenQuiet s (answerRead s w (routerRead s sp a w)) := by
  cases sp <;> cases w <;> rfl

/-- Every Router write is `RouterAccess` of the low bits of its value (R158 to R161, R166 to R169). -/
theorem exec_routerWrite (sp : Space) (w : Width) (a : Nat) (v : Word) (s : State) :
    exec (.routerWrite sp w a v) s = whenQuiet s (answerWrite s (routerWrite s sp a w (lowBits w v))) := by
  cases sp <;> cases w <;>
    simp only [Instr.routerWrite, exec, execStore8, execStore16, execStore32, execStore64, execOut8, execOut16,
      execOut32, execOut64, routerWriteCommand, lowBits_w8, lowBits_w16, lowBits_w32, lowBits_w64]

/-- Every Device read is `DevRead` (R122 to R125, R130 to R133). -/
theorem exec_deviceRead (sp : Space) (w : Width) (dev off : Nat) (s : State) :
    exec (.deviceRead sp w dev off) s = whenQuiet s (answerRead s w (deviceRead s dev off w)) := by
  cases sp <;> cases w <;> rfl

/-- Every Device write is `DevWrite` of the low bits of its value (R126 to R129, R134 to R137). -/
theorem exec_deviceWrite (sp : Space) (w : Width) (dev off : Nat) (v : Word) (s : State) :
    exec (.deviceWrite sp w dev off v) s = whenQuiet s (answerWrite s (deviceWrite s dev off w (lowBits w v))) := by
  cases sp <;> cases w <;>
    simp only [Instr.deviceWrite, exec, execDstore8, execDstore16, execDstore32, execDstore64, execDout8, execDout16,
      execDout32, execDout64, deviceWriteCommand, lowBits_w8, lowBits_w16, lowBits_w32, lowBits_w64]

/-- Both registrations are `Register` (R152, R153). -/
theorem exec_registration (sp : Space) (dev base size : Nat) (s : State) :
    exec (registration sp dev base size) s = answerWrite s (register s sp dev base size) := by
  cases sp <;> rfl

/-! ## The bytes of an access -/

/-- The value of a byte list as the sum of R61. -/
theorem leValue_eq_sum (l : List Byte) : leValue l = ∑ i ∈ Finset.range l.length, (l.getD i 0).toNat * 256 ^ i := by
  induction l with
  | nil => rfl
  | cons b l ih =>
    simp only [leValue, List.length_cons, Finset.sum_range_succ', List.getD_cons_succ, List.getD_cons_zero, ih,
      Finset.mul_sum]
    have h : ∀ i, 256 * ((l.getD i 0).toNat * 256 ^ i) = (l.getD i 0).toNat * 256 ^ (i + 1) := by intro i; ring
    simp only [h]
    simp
    ring

/-- The value a Device read returns is the sum of R61 over the bytes of the span. -/
theorem valueOfBytes_readSpan (order : ByteOrder) (m : Memory) (off n : Nat) :
    valueOfBytes order (m.readSpan off n) = BitVec.ofNat 64 (accessValue order n fun i => m.read (off + i)) := by
  cases order
  · simp only [valueOfBytes, accessValue, leValue_eq_sum, Memory.readSpan_length]
    congr 1
    refine Finset.sum_congr rfl fun i hi => ?_
    rw [Memory.readSpan_getD _ _ _ _ (Finset.mem_range.1 hi)]
  · simp only [valueOfBytes, accessValue, leValue_eq_sum, List.length_reverse, Memory.readSpan_length]
    congr 1
    rw [← Finset.sum_range_reflect]
    refine Finset.sum_congr rfl fun i hi => ?_
    have hi := Finset.mem_range.1 hi
    rw [List.getD_eq_getElem?_getD, List.getElem?_reverse (by simp; omega), ← List.getD_eq_getElem?_getD]
    simp only [Memory.readSpan_length]
    rw [show n - 1 - (n - 1 - i) = i by omega, Memory.readSpan_getD _ _ _ _ hi]

/-- A Device read, in the terms of the statements (R120). -/
theorem Device.read_eq (d : Device) (off : Nat) (w : Width) :
    d.read off w =
      if d.size < off + w.bytes then
        .error (.outOfRange off d.size (if 1 < w.bytes then some (off, off + w.bytes) else none))
      else .ok (BitVec.ofNat 64 (accessValue d.order w.bytes fun i => d.storage.read (off + i))) := by
  simp only [Device.read, payloadSpan, valueOfBytes_readSpan]

/-- Byte `i` of the bytes of a value, least significant first. -/
theorem leBytes_getD (n v i : Nat) (h : i < n) : (leBytes n v).getD i 0 = BitVec.ofNat 8 (v / 256 ^ i) := by
  induction n generalizing v i with
  | zero => omega
  | succ n ih =>
    cases i with
    | zero => simp [leBytes]
    | succ i =>
      simp only [leBytes, List.getD_cons_succ]
      rw [ih _ _ (by omega), Nat.div_div_eq_div_mul, pow_succ, Nat.mul_comm]

/-- Byte `i` of the low bits of a value is the slice `v[8i + 7 : 8i]`. -/
theorem lowBits_byte (v : Word) (w : Width) (i : Nat) (h : i < w.bytes) :
    BitVec.ofNat 8 ((lowBits w v).toNat / 256 ^ i) = v.extractLsb' (8 * i) 8 := by
  have h2 : (256 : Nat) ^ i = 2 ^ (8 * i) := by rw [pow_mul]; norm_num
  apply BitVec.eq_of_getLsbD_eq
  intro k hk
  simp only [BitVec.getLsbD_ofNat, BitVec.getLsbD_extractLsb', hk, decide_true, Bool.true_and]
  rw [h2, ← Nat.shiftRight_eq_div_pow, Nat.testBit_shiftRight]
  simp only [lowBits, BitVec.toNat_ofNat]
  rw [Nat.mod_eq_of_lt (Nat.lt_of_le_of_lt (Nat.mod_le _ _) v.isLt), Nat.testBit_mod_two_pow]
  have : 8 * i + k < w.bits := by cases w <;> simp [Width.bytes, Width.bits] at * <;> omega
  simp [this, BitVec.getLsbD]

/-- Byte `i` of the bytes a Device write stores, in the terms of the statements (R61, R121). -/
theorem bytesOfValue_getD (order : ByteOrder) (w : Width) (v : Word) (i : Nat) (h : i < w.bytes) :
    (bytesOfValue order w.bytes (lowBits w v)).getD i 0 = accessByte order w.bytes i v := by
  cases order
  · simp only [bytesOfValue, accessByte, leBytes_getD _ _ _ h, lowBits_byte _ _ _ h]
  · simp only [bytesOfValue, accessByte]
    rw [List.getD_eq_getElem?_getD, List.getElem?_reverse (by simpa using h), ← List.getD_eq_getElem?_getD,
      leBytes_length, leBytes_getD _ _ _ (by omega), lowBits_byte _ _ _ (by omega)]

/-! ## The clock -/

/-- The interval of a positive frequency is its inverse (R38). -/
theorem clockInterval_eq {f : Rat} (h : 0 < f) : clockInterval f = 1 / f := by
  have hn : ((f.num.toNat : Nat) : Rat) = f.num := by
    rw [← Int.cast_natCast, Int.toNat_of_nonneg (Rat.num_pos.2 h).le]
  rw [clockInterval, Rat.mkRat_eq_div]
  conv_rhs => rw [← Rat.num_div_den f, one_div, inv_div, ← hn]
  rw [Int.cast_natCast]

end Sys2Proof.Machine
end

