-- ==== Sys2Proof/Laws/Registers.lean ====
section
/-! SUPPORT. What reading and writing a register can do (spec/42_regfile.md R191 to R193). -/

namespace Sys2Proof.Machine

/-! ## Storage registers -/

@[simp] theorem setCell_halves (f : RegFile) (r : RegName) (v : Word) : (f.setCell r v).halves = f.halves := rfl

@[simp] theorem setCell_pcName (f : RegFile) (r : RegName) (v : Word) : (f.setCell r v).pcName = f.pcName := rfl

/-- A write keeps every register's name. -/
@[simp] theorem setCell_names (f : RegFile) (r : RegName) (v : Word) :
    (f.setCell r v).cells.map RegCell.name = f.cells.map RegCell.name := by
  simp only [RegFile.setCell, List.map_map]
  refine List.map_congr_left fun c _ => ?_
  simp only [Function.comp]
  split <;> rfl

/-- The cells after a write: the one written, or cells of another name. -/
theorem mem_setCell {f : RegFile} {r : RegName} {v : Word} {c : RegCell} (h : c ∈ (f.setCell r v).cells) :
    ∃ c₀ ∈ f.cells, (c₀.name = r ∧ c = { c₀ with val := v }) ∨ (c₀.name ≠ r ∧ c = c₀) := by
  obtain ⟨c₀, h₀, rfl⟩ := List.mem_map.1 h
  refine ⟨c₀, h₀, ?_⟩
  by_cases hn : c₀.name = r
  · exact Or.inl ⟨hn, by simp [hn]⟩
  · exact Or.inr ⟨hn, by simp [hn]⟩

/-- Finding a cell after a write. -/
theorem cell?_setCell (f : RegFile) (r q : RegName) (v : Word) :
    (f.setCell r v).cell? q = (f.cell? q).map fun c => if q = r then { c with val := v } else c := by
  obtain ⟨cells, halves, pcName⟩ := f
  simp only [RegFile.cell?, RegFile.setCell]
  induction cells with
  | nil => rfl
  | cons c cells ih =>
    simp only [List.map_cons, List.find?_cons]
    by_cases hr : c.name = r
    · by_cases hq : r = q
      · simp [hr, hq]
      · have hb : (r == q) = false := by simpa using hq
        simpa [hr, hb] using ih
    · by_cases hq : c.name = q
      · have hqr : q ≠ r := fun h => hr (hq.trans h)
        simp [hq, hqr]
      · have hb : (c.name == q) = false := by simpa using hq
        simpa [hr, hb] using ih

/-- A cell found by name has that name and is one of the file's. -/
theorem cell?_some {f : RegFile} {r : RegName} {c : RegCell} (h : f.cell? r = some c) : c ∈ f.cells ∧ c.name = r := by
  refine ⟨List.mem_of_find?_eq_some h, ?_⟩
  have := List.find?_some h
  simpa using this

/-- In a file of distinct names, a cell is the one its name finds. -/
theorem cell?_of_mem {f : RegFile} (hn : (f.cells.map RegCell.name).Nodup) {c : RegCell} (h : c ∈ f.cells) :
    f.cell? c.name = some c := by
  obtain ⟨cells, halves, pcName⟩ := f
  simp only [RegFile.cell?] at *
  induction cells with
  | nil => cases h
  | cons a cells ih =>
    simp only [List.map_cons, List.nodup_cons] at hn
    rcases List.mem_cons.1 h with rfl | h
    · simp
    · have hne : a.name ≠ c.name := fun he => hn.1 (he ▸ List.mem_map_of_mem h)
      simpa [List.find?_cons, hne] using ih hn.2 h

/-! ## Writing, whole and half -/

/-- All that a register write can do (R192, R193). -/
theorem write_cases {f f' : RegFile} {r : RegName} {v : Word} (h : f.write r v = some f') :
    (∃ c, f.cell? r = some c ∧ f' = f.setCell r v) ∨
    (f.cell? r = none ∧ ∃ hr c, f.half? r = some hr ∧ f.cell? hr.parent = some c ∧
      f' = f.setCell hr.parent (writePart hr.part c.width c.val v)) := by
  unfold RegFile.write at h
  split at h
  · next c hc => cases h; exact Or.inl ⟨c, hc, rfl⟩
  · next hc =>
    split at h
    · cases h
    · next hr hh =>
      obtain ⟨c, hp, rfl⟩ := Option.map_eq_some_iff.1 h
      exact Or.inr ⟨hc, hr, c, hh, hp, rfl⟩

/-- A command's register write changes the register file alone (R195). -/
theorem writeRegisterSlice_ok {s s' : State} {r : RegName} {v : Word} (h : writeRegisterSlice s r v = .ok s') :
    ∃ w f, s.regs.width? r = some w ∧ s.regs.write r (sliceData w v) = some f ∧ s' = s.withRegs f := by
  unfold writeRegisterSlice at h
  split at h
  · cases h
  · next w hw =>
    split at h
    · cases h
    · next f hf => cases h; exact ⟨w, f, hw, hf, rfl⟩

/-- No register write of a command raises a condition (R195). -/
theorem writeRegisterSlice_raise {s : State} {r : RegName} {v : Word} {c : Condition} :
    writeRegisterSlice s r v ≠ .raise c := by
  unfold writeRegisterSlice
  split
  · simp
  · split <;> simp

/-- A register write of `Exec` changes the register file alone, by a value of the register's width (R193). -/
theorem writeRegisterExact_some {s s' : State} {r : RegName} {v : Word} (h : writeRegisterExact s r v = some s') :
    ∃ w f, s.regs.width? r = some w ∧ v.toNat < 2 ^ w.bits ∧ s.regs.write r v = some f ∧ s' = s.withRegs f := by
  unfold writeRegisterExact at h
  split at h
  · cases h
  · next w hw =>
    split at h
    · next hv =>
      obtain ⟨f, hf, rfl⟩ := Option.map_eq_some_iff.1 h
      exact ⟨w, f, hw, hv, hf, rfl⟩
    · cases h

end Sys2Proof.Machine
end

