-- ==== Sys2Proof/Laws/Processor.lean ====
section
/-! SUPPORT. What the steps of the Processor and of the worker can do: one lemma per shared operation. -/

namespace Sys2Proof.Machine

/-! ## Running an `Exec` -/

/-- A property of the state a run of an `Exec` has reached, where it ends and where it raises. -/
def TreeRun.Reached (P : State → Prop) : TreeRun → Prop
  | .ends s _ => P s
  | .raised s _ => P s
  | .refused _ => True
  | .neverEnds => True

/-- What an `Exec` keeps: a property kept by each of its register writes and each of its stores holds in the state it
ends in, and in the state it has reached where it raises. -/
theorem runTree_keeps {P : State → Prop}
    (hr : ∀ s r v s', P s → writeRegisterExact s r v = some s' → P s')
    (hw : ∀ s sp a w v s', P s → routerWrite s sp a w v = .ok s' → P s') (t : ExecTree) :
    ∀ s, P s → (runTree t s).Reached P := by
  induction t with
  | ends o => exact fun s hs => hs
  | neverEnds => exact fun s _ => trivial
  | readReg r k ih =>
    intro s hs
    unfold runTree
    cases h : s.regs.read r with
    | none => trivial
    | some v => exact ih v s hs
  | writeReg r v k ih =>
    intro s hs
    unfold runTree
    cases h : writeRegisterExact s r v with
    | none => trivial
    | some s₁ => exact ih s₁ (hr s r v s₁ hs h)
  | read sp a w k ih =>
    intro s hs
    unfold runTree
    cases h : routerRead s (s.spaceOf sp) a w with
    | ok v => exact ih v s hs
    | raise c => exact hs
    | refuse r => trivial
  | write sp a w v k ih =>
    intro s hs
    unfold runTree
    cases h : routerWrite s (s.spaceOf sp) a w v with
    | ok s₁ => exact ih s₁ (hw s _ a w v s₁ hs h)
    | raise c => exact hs
    | refuse r => trivial

/-- State with its register file and its Devices replaced: all that an `Exec` changes. -/
def State.withMachine (s : State) (f : RegFile) (ds : List Device) : State := { s with regs := f, devices := ds }

/-- An `Exec` changes the register file and the Devices alone (R222 (c)). -/
theorem runTree_frame (t : ExecTree) (s : State) :
    (runTree t s).Reached fun x => x = s.withMachine x.regs x.devices := by
  refine runTree_keeps ?_ ?_ t s rfl
  · intro x r v x' hx h
    obtain ⟨_, f, _, _, _, rfl⟩ := writeRegisterExact_some h
    rw [hx]; rfl
  · intro x sp a w v x' hx h
    obtain ⟨_, d, _, _, rfl⟩ := routerWrite_ok h
    rw [hx]; rfl

/-! ## Fetch -/

/-- A property of the state a step of the Processor has reached: `D` where it is done, `E` where it raises. -/
def Run.Reached (D E : State → Prop) : Run → Prop
  | .done s => D s
  | .raised s _ => E s
  | .refused _ => True
  | .stuck _ => True

/-- The end of the loop of `FETCHI` (R212). -/
def endFetch (s : State) : State := { s with pstate := .decoding }

/-- What the loop of `FETCHI` keeps: a property kept by the consuming of one byte holds, but for `pstate`, in the state
it ends in, and in the state it has reached where it raises. -/
theorem fetchLoop_keeps {P : State → Prop} (hc : ∀ s b, P s → P (consumeByte s b)) (n : Nat) :
    ∀ s, P s → (fetchLoop n s).Reached (fun s' => ∃ s₁, P s₁ ∧ s' = endFetch s₁) P := by
  induction n with
  | zero => exact fun s _ => trivial
  | succ n ih =>
    intro s hs
    unfold fetchLoop
    cases h : routerRead s (s.spaceOf .mem) s.regs.pc.toNat .w8 with
    | refuse r => trivial
    | raise c => exact hs
    | ok v =>
      have h1 := hc s (v.setWidth 8) hs
      dsimp only
      split
      · exact ⟨_, h1, rfl⟩
      · exact ih _ h1
      · split
        · exact h1
        · trivial

/-- State with the fields `FETCHI` changes replaced. -/
def State.withFetch (s : State) (f : RegFile) (l : List Byte) (p : PState) : State :=
  { s with regs := f, ibuf := l, pstate := p }

/-- `FETCHI` changes the register file, `ibuf` and `pstate` alone (R212). -/
theorem fetchLoop_frame (n : Nat) (s : State) :
    (fetchLoop n s).Reached (fun x => x = s.withFetch x.regs x.ibuf .decoding)
      (fun x => x = s.withFetch x.regs x.ibuf s.pstate) := by
  have := fetchLoop_keeps (P := fun x => x = s.withFetch x.regs x.ibuf s.pstate)
    (fun x b hx => by rw [hx]; rfl) n s rfl
  cases h : fetchLoop n s with
  | done s' =>
    rw [h] at this
    obtain ⟨s₁, h₁, rfl⟩ := this
    show _ = _
    rw [h₁]; rfl
  | raised s' c => rw [h] at this; exact this
  | refused r => trivial
  | stuck f => trivial

/-- `FETCHI` never ends in a stuck state. -/
theorem fetchLoop_not_stuck (n : Nat) (s : State) (f : Fault) : fetchLoop n s ≠ .stuck f := by
  induction n generalizing s with
  | zero => simp [fetchLoop]
  | succ n ih =>
    unfold fetchLoop
    cases routerRead s (s.spaceOf .mem) s.regs.pc.toNat .w8 with
    | refuse r => simp
    | raise c => simp
    | ok v =>
      dsimp only
      split
      · simp
      · exact ih _
      · split <;> simp

/-- The state in which the loop of `FETCHI` begins (R212). -/
def beginFetch (s : State) : State := { s with pstate := .fetching, ibuf := [] }

/-- All that `FETCHI` can do (R212). -/
theorem fetchRun_cases (s : State) :
    s.setupDone = false ∧ fetchRun s = .refused .noSetup ∨
    s.setupDone = true ∧ s.pstate = .halted ∧ fetchRun s = .done s ∨
    s.setupDone = true ∧ (s.pstate = .decoding ∨ s.pstate = .executing) ∧ fetchRun s = .refused .outOfSequence ∨
    s.setupDone = true ∧ (s.pstate = .reset ∨ s.pstate = .fetching) ∧
      fetchRun s = fetchLoop (targetMaxLen s.target) (beginFetch s) := by
  unfold fetchRun beginFetch
  cases s.setupDone <;> cases hp : s.pstate <;> simp

/-! ## Decode and execute -/

/-- All that `DECODEI` can do (R213). -/
theorem decodeRun_cases (s : State) :
    s.pstate = .halted ∧ decodeRun s = .done s ∨
    (s.pstate = .decoding ∧ ∃ d, targetDecode s.target s.ibuf = some d ∧
      decodeRun s = .done { s with decoded := some d, pstate := .executing }) ∨
    (s.pstate = .decoding ∧ targetDecode s.target s.ibuf = none ∧ decodeRun s = .refused .targetContract) ∨
    (s.pstate ≠ .halted ∧ s.pstate ≠ .decoding ∧ decodeRun s = .refused .outOfSequence) := by
  unfold decodeRun
  cases hp : s.pstate <;> simp
  cases targetDecode s.target s.ibuf <;> simp

/-- What consulting the callback changes: the environment's answers and the count of questions. -/
theorem consultCallback_frame (cb : Nat) (s : State) :
    (consultCallback cb s).2 = { s with dbgAnswers := s.dbgAnswers.tail, dbgCount := s.dbgCount + 1 } := by
  unfold consultCallback
  split
  · next h => simp [h]
  · next h => simp [h]

/-- All that the callback step can do when it ends (R214). -/
theorem callbackStep_done {s s' : State} (h : callbackStep s = .done s') :
    (s.dbg = none ∧ s' = s) ∨
    ∃ cb, s.dbg = some cb ∧ (s' = (consultCallback cb s).2 ∨ s' = haltWith .debugRequested (consultCallback cb s).2) := by
  unfold callbackStep at h
  split at h
  · next hd => cases h; exact Or.inl ⟨hd, rfl⟩
  · next cb hd =>
    refine Or.inr ⟨cb, hd, ?_⟩
    split at h
    · next heq => cases h; exact Or.inl (by rw [heq])
    · next heq => cases h; exact Or.inr (by rw [heq])
    · cases h
    · cases h
    · cases h

/-- The callback step raises no condition. -/
theorem callbackStep_not_raised (s s' : State) (c : Condition) : callbackStep s ≠ .raised s' c := by
  unfold callbackStep
  split
  · simp
  · split <;> simp

/-- The state of an executed instruction before the callback is consulted (R214). -/
def afterExec (o : ExecOutcome) (s : State) : State :=
  match o with
  | .halt => haltWith .haltInstruction { s with ibuf := [], decoded := none }
  | .cont => { s with ibuf := [], decoded := none }

/-- All that the end of an instruction can do when it ends (R214). -/
theorem finishInstruction_done {o : ExecOutcome} {s s' : State} (h : finishInstruction o s = .done s') :
    ∃ s₁, callbackStep (afterExec o s) = .done s₁ ∧ s' = countInstruction s₁ := by
  unfold finishInstruction at h
  dsimp only at h
  change (match callbackStep (afterExec o s) with
    | .done s3 => Run.done (countInstruction s3)
    | .raised s3 c => .raised s3 c
    | .refused r => .refused r
    | .stuck f => .stuck f) = .done s' at h
  split at h
  · next s₁ h₁ => cases h; exact ⟨s₁, h₁, rfl⟩
  · cases h
  · cases h
  · cases h

/-- With no callback installed an instruction ends at once (R214). -/
theorem finishInstruction_no_callback {o : ExecOutcome} {s : State} (h : s.dbg = none) :
    finishInstruction o s = .done (countInstruction (afterExec o s)) := by
  have hd : (afterExec o s).dbg = none := by
    cases o with
    | cont => exact h
    | halt => unfold afterExec haltWith; by_cases hp : s.pstate = .halted <;> simp [hp, h]
  have hc : callbackStep (afterExec o s) = .done (afterExec o s) := by unfold callbackStep; rw [hd]
  unfold finishInstruction
  dsimp only
  change (match callbackStep (afterExec o s) with
    | .done s3 => Run.done (countInstruction s3)
    | .raised s3 c => .raised s3 c
    | .refused r => .refused r
    | .stuck f => .stuck f) = _
  rw [hc]

/-- The end of an instruction raises no condition. -/
theorem finishInstruction_not_raised (o : ExecOutcome) (s s' : State) (c : Condition) :
    finishInstruction o s ≠ .raised s' c := by
  unfold finishInstruction
  dsimp only
  intro h
  split at h
  · cases h
  · next h' => exact callbackStep_not_raised _ _ _ h'
  · cases h
  · cases h

/-- All that `EXECI` from `Exec` on can do (R214, R225). -/
theorem executeTree_cases (t : ExecTree) (s : State) :
    s.pstate = .halted ∧ executeTree t s = .done s ∨
    (s.pstate = .executing ∧ ∃ s' o, runTree t s = .ends s' o ∧ executeTree t s = finishInstruction o s') ∨
    (s.pstate = .executing ∧ ∃ s' c, runTree t s = .raised s' c ∧ executeTree t s = .raised s' c) ∨
    (s.pstate = .executing ∧ ∃ r, runTree t s = .refused r ∧ executeTree t s = .refused r) ∨
    (s.pstate = .executing ∧ runTree t s = .neverEnds ∧ executeTree t s = .stuck .execNeverReturns) ∨
    (s.pstate ≠ .halted ∧ s.pstate ≠ .executing ∧ executeTree t s = .refused .outOfSequence) := by
  unfold executeTree
  cases hp : s.pstate <;> simp
  cases runTree t s <;> simp

/-- All that `EXECI` on a decoded instruction can do (R214). -/
theorem executeDecoded_cases (s : State) :
    s.pstate = .halted ∧ executeDecoded s = .done s ∨
    (s.pstate = .executing ∧ ∃ d, s.decoded = some d ∧ executeDecoded s = executeTree (targetExec d) s) ∨
    ((s.pstate = .executing → s.decoded = none) ∧ s.pstate ≠ .halted ∧
      executeDecoded s = .refused .outOfSequence) := by
  unfold executeDecoded
  cases hp : s.pstate <;> simp
  cases s.decoded <;> simp

/-- All that `EXECI` can do (R214). -/
theorem execRun_cases (s : State) :
    (s.pstate = .decoding ∧ ∃ d, targetDecode s.target s.ibuf = some d ∧
      execRun s = executeDecoded { s with decoded := some d, pstate := .executing }) ∨
    (s.pstate = .decoding ∧ targetDecode s.target s.ibuf = none ∧ execRun s = .refused .targetContract) ∨
    (s.pstate ≠ .decoding ∧ execRun s = executeDecoded s) := by
  by_cases hp : s.pstate = .decoding
  · rcases decodeRun_cases s with ⟨h, _⟩ | ⟨_, d, hd, h⟩ | ⟨_, hn, h⟩ | ⟨_, h, _⟩
    · exact absurd (hp.symm.trans h) (by decide)
    · exact Or.inl ⟨hp, d, hd, by simp [execRun, hp, h]⟩
    · exact Or.inr (Or.inl ⟨hp, hn, by simp [execRun, hp, h]⟩)
    · exact absurd hp h
  · exact Or.inr (Or.inr ⟨hp, by simp [execRun, hp]⟩)

/-! ## The worker -/

/-- A step of the Processor that goes on: it ended, or it raised and the run ended (R226, R294). -/
theorem workerOutcome_next {r : Run} {t : State} (h : workerOutcome r = .next t) :
    r = .done t ∨ ∃ s c, r = .raised s c ∧ t = takeFault s c := by
  cases r with
  | done s => cases h; exact Or.inl rfl
  | raised s c => cases h; exact Or.inr ⟨s, c, rfl, rfl⟩
  | refused r => cases h
  | stuck f => cases h

/-- All that the ticks of an iteration can do (R260, R335). -/
theorem tickAll_cases (s : State) :
    s.periph.all Periph.returns = true ∧ tickAll s = .done (ticked s) ∨
    s.periph.all Periph.returns = false ∧ tickAll s = .stuck .tickNeverReturns := by
  unfold tickAll
  cases s.periph.all Periph.returns <;> simp

/-- An iteration whose ticks go on: a fault halt before them, or the ticks (R253, R294). -/
theorem ticksAfter_next {o : Host.Outcome State Fault Refusal} {t : State} (h : ticksAfter o = .next t) :
    ∃ s, o = .next s ∧
      (s.active = false ∧ t = s ∨ s.active = true ∧ s.periph.all Periph.returns = true ∧ t = ticked s) := by
  cases o with
  | next s =>
    refine ⟨s, rfl, ?_⟩
    unfold ticksAfter at h
    cases ha : s.active
    · simp [ha] at h; exact Or.inl ⟨rfl, h.symm⟩
    · rcases tickAll_cases s with ⟨hr, ht⟩ | ⟨_, ht⟩
      · simp [ha, ht, workerOutcome] at h
        exact Or.inr ⟨rfl, hr, h.symm⟩
      · simp [ha, ht, workerOutcome] at h
  | fault f => cases h
  | refused r => cases h

/-- The rest of an iteration that goes on: a fault halt in the execution, or the ticks (R253). -/
theorem completeIteration_next {s t : State} (h : completeIteration s = .next t) :
    (∃ s' c, execRun s = .raised s' c ∧ t = takeFault s' c) ∨
    ∃ s', execRun s = .done s' ∧ (s'.active = false ∧ t = s' ∨ s'.active = true ∧ t = ticked s') := by
  obtain ⟨s', ho, ht⟩ := ticksAfter_next h
  rcases workerOutcome_next ho with hd | ⟨s'', c, hr, rfl⟩
  · rcases ht with ⟨ha, rfl⟩ | ⟨ha, _, rfl⟩
    · exact Or.inr ⟨_, hd, Or.inl ⟨ha, rfl⟩⟩
    · exact Or.inr ⟨_, hd, Or.inr ⟨ha, rfl⟩⟩
  · rcases ht with ⟨_, rfl⟩ | ⟨ha, _⟩
    · exact Or.inl ⟨s'', c, hr, rfl⟩
    · cases ha

/-- An iteration that goes on: a fault halt in the fetch, or the rest of the iteration (R253). -/
theorem iteration_next {s t : State} (h : iteration s = .next t) :
    (∃ s' c, fetchRun s = .raised s' c ∧ t = takeFault s' c) ∨
    ∃ s', fetchRun s = .done s' ∧ completeIteration s' = .next t := by
  unfold iteration at h
  split at h
  · next s' c hf => cases h; exact Or.inl ⟨s', c, hf, rfl⟩
  · cases h
  · cases h
  · next s' hf => exact Or.inr ⟨s', hf, h⟩

/-- All that `WORKERSTEP` can do (R253, R258). -/
theorem execWorkerstep_cases (s : State) :
    s.active = false ∧ execWorkerstep s = .refused .noWorker ∨
    s.active = true ∧ s.inFlight = true ∧ execWorkerstep s = completeIteration s ∨
    s.active = true ∧ s.inFlight = false ∧ exitsAtBoundary s = true ∧ execWorkerstep s = .next (workerExit s) ∨
    s.active = true ∧ s.inFlight = false ∧ exitsAtBoundary s = false ∧ execWorkerstep s = iteration s := by
  unfold execWorkerstep
  cases s.active <;> cases s.inFlight <;> cases exitsAtBoundary s <;> simp

end Sys2Proof.Machine
end

