-- ==== Sys2Proof/Laws/Fetch.lean ====
section
/-! SUPPORT. The program counter under writes, the loop of `FETCHI` over the bytes at the program counter, and the end of
an instruction, in the terms of the statements (spec/43_processor.md R212, R214). -/

namespace Sys2Proof.Machine

/-! ## The program counter -/

theorem bits_le (w : Width) : w.bits ≤ 64 := by cases w <;> simp [Width.bits]

@[simp] theorem setPc_pcBits (f : RegFile) (v : Word) : (f.setPc v).pcBits = f.pcBits := by
  simp only [RegFile.pcBits, RegFile.setPc, setCell_pcName, cell?_setCell]
  cases f.cell? f.pcName <;> simp

/-- The program counter after a write of it. -/
theorem setPc_pc (f : RegFile) (v : Word) : (f.setPc v).pc = if (f.cell? f.pcName).isSome then v else 0 := by
  simp only [RegFile.pc, RegFile.setPc, setCell_pcName, cell?_setCell]
  cases f.cell? f.pcName <;> simp

/-- The later of two writes of one register stays. -/
theorem setCell_setCell (f : RegFile) (r : RegName) (v w : Word) : (f.setCell r v).setCell r w = f.setCell r w := by
  simp only [RegFile.setCell, List.map_map]
  congr 1
  refine List.map_congr_left fun c _ => ?_
  by_cases h : c.name = r <;> simp [h]

/-- A register file without a program counter is not changed by a write of it. -/
theorem setPc_none (f : RegFile) (v : Word) (h : f.cell? f.pcName = none) : f.setPc v = f := by
  obtain ⟨cells, halves, pcName⟩ := f
  simp only [RegFile.setPc, RegFile.setCell, RegFile.cell?] at *
  congr 1
  have h2 := List.find?_eq_none.1 h
  conv_rhs => rw [← List.map_id cells]
  refine List.map_congr_left fun c hc => ?_
  have := h2 c hc
  simp at this
  simp [this]

/-- In a fitting register file the program counter has a value of its width. -/
theorem pc_lt (s : State) (h : s.registersFit) : s.regs.pc.toNat < 2 ^ s.regs.pcBits := by
  simp only [RegFile.pc, RegFile.pcBits]
  cases hc : s.regs.cell? s.regs.pcName with
  | none => simp
  | some c => exact (h.2 c (cell?_some hc).1).1

theorem pcBits_le (f : RegFile) : f.pcBits ≤ 64 := by
  simp only [RegFile.pcBits]
  split
  · exact bits_le _
  · simp

theorem fetchAddress_lt (s : State) (k : Nat) : s.fetchAddress k < 2 ^ s.regs.pcBits := Nat.mod_lt _ (by positivity)

/-! ## The loop of `FETCHI` -/

/-- Consuming one more byte. -/
theorem consumeByte_consumed (s : State) (b : Byte) (bytes : List Byte) (p : PState) :
    consumeByte (s.consumed bytes p) b = s.consumed (bytes ++ [b]) p := by
  have h : ∀ v, (s.regs.setPc v).setPc (s.regs.setPc v).pcPlusOne = s.regs.setPc (s.regs.setPc v).pcPlusOne := by
    intro v
    simp only [RegFile.setPc, setCell_pcName, setCell_setCell]
  have hpc : s.regs.setPc (s.regs.setPc (BitVec.ofNat 64 (s.fetchAddress bytes.length))).pcPlusOne =
      s.regs.setPc (BitVec.ofNat 64 (s.fetchAddress (bytes ++ [b]).length)) := by
    cases hc : s.regs.cell? s.regs.pcName with
    | none => simp only [setPc_none _ _ hc]
    | some c =>
      congr 1
      simp only [RegFile.pcPlusOne, setPc_pc, hc, setPc_pcBits]
      simp only [Option.isSome_some, if_true, BitVec.toNat_ofNat, State.fetchAddress, List.length_append,
        List.length_singleton]
      have h2 : 2 ^ s.regs.pcBits ≤ 2 ^ 64 := Nat.pow_le_pow_right (by norm_num) (pcBits_le s.regs)
      have h3 := fetchAddress_lt s bytes.length
      unfold State.fetchAddress at h3
      rw [Nat.mod_eq_of_lt (show (s.regs.pc.toNat + bytes.length) % 2 ^ s.regs.pcBits < 2 ^ 64 by omega),
        Nat.mod_add_mod, ← Nat.add_assoc]
  simp only [consumeByte, State.consumed, h, hpc]

/-- The program counter after the bytes consumed. -/
theorem consumed_pc (s : State) (bytes : List Byte) (p : PState) :
    (s.consumed bytes p).regs.pc.toNat = s.fetchAddress bytes.length := by
  simp only [State.consumed, setPc_pc]
  have h2 : 2 ^ s.regs.pcBits ≤ 2 ^ 64 := Nat.pow_le_pow_right (by norm_num) (pcBits_le s.regs)
  have h3 := fetchAddress_lt s bytes.length
  cases hc : s.regs.cell? s.regs.pcName with
  | none => simp [State.fetchAddress, RegFile.pcBits, hc, Nat.mod_one]
  | some c =>
    simp only [Option.isSome_some, if_true, BitVec.toNat_ofNat]
    rw [Nat.mod_eq_of_lt (by omega)]

/-- Fetching changes nothing a read of memory sees. -/
theorem routerRead_consumed (s : State) (bytes : List Byte) (p : PState) (sp : Space) (a : Nat) (w : Width) :
    routerRead (s.consumed bytes p) sp a w = routerRead s sp a w := by
  cases sp <;> rfl

/-- Nothing consumed yet. -/
theorem consumed_nil (s : State) (h : s.registersFit) (p : PState) :
    s.consumed [] p = { s with ibuf := [], pstate := p } := by
  have hr : s.regs.setPc (BitVec.ofNat 64 (s.fetchAddress 0)) = s.regs := by
    have hpc := pc_lt s h
    simp only [State.fetchAddress, Nat.add_zero, Nat.mod_eq_of_lt hpc, BitVec.ofNat_toNat, BitVec.setWidth_eq]
    cases hc : s.regs.cell? s.regs.pcName with
    | none => exact setPc_none _ _ hc
    | some c =>
      have hval : s.regs.pc = c.val := by simp [RegFile.pc, hc]
      have hx : ∀ x ∈ s.regs.cells, x.name = s.regs.pcName → x = c := fun x hx hn => by
        have h1 := cell?_of_mem h.1 hx
        rw [hn, hc] at h1
        exact (Option.some.inj h1).symm
      rw [hval]
      generalize s.regs = f at *
      obtain ⟨cells, halves, pcName⟩ := f
      simp only [RegFile.setPc, RegFile.setCell]
      congr 1
      conv_rhs => rw [← List.map_id cells]
      refine List.map_congr_left fun x hxm => ?_
      by_cases hn : x.name = pcName
      · have := hx x hxm hn
        subst this
        simp
      · simp [hn]
  simp only [State.consumed, List.length_nil, hr]

/-- The loop of `FETCHI` from its `k`-th byte on, over bytes whose proper beginnings are `More` (R212, R98). -/
theorem fetchLoop_bytes (s : State) (hm : s.memRef = some .mem) (bytes : List Byte) (hh : s.holdsAtPc bytes)
    (hmore : ∀ k, 0 < k → k < bytes.length → targetLenStep s.target (bytes.take k) = .more) (n : Nat) :
    ∀ k, k < bytes.length → bytes.length ≤ k + n →
      (targetLenStep s.target bytes = .done →
        fetchLoop n (s.consumed (bytes.take k) .fetching) = .done (s.consumed bytes .decoding)) ∧
      ∀ b, targetLenStep s.target bytes = .unknown b →
        fetchLoop n (s.consumed (bytes.take k) .fetching) =
          if bytes.getLast? = some b then .raised (s.consumed bytes .fetching) (.unknownInstruction b)
          else .refused .targetContract := by
  induction n with
  | zero => intro k h1 h2; omega
  | succ n ih =>
    intro k h1 h2
    have hlen : (bytes.take k).length = k := by simp; omega
    have hread : routerRead s .mem (s.fetchAddress k) .w8 = .ok ((bytes[k]).setWidth 64) :=
      hh k _ (List.getElem?_eq_getElem h1)
    have hsp : (s.consumed (bytes.take k) .fetching).spaceOf .mem = .mem := by simp [State.spaceOf, State.consumed, hm]
    have hb : ((bytes[k]).setWidth 64).setWidth 8 = bytes[k] := by
      apply BitVec.eq_of_toNat_eq
      simp
    have htake : bytes.take k ++ [bytes[k]] = bytes.take (k + 1) := by simp
    unfold fetchLoop
    rw [hsp, consumed_pc, routerRead_consumed, hlen, hread]
    simp only [hb, consumeByte_consumed, htake]
    have ht : (s.consumed (bytes.take (k + 1)) .fetching).target = s.target := rfl
    have hi : (s.consumed (bytes.take (k + 1)) .fetching).ibuf = bytes.take (k + 1) := rfl
    rw [ht, hi]
    by_cases hk : k + 1 < bytes.length
    · rw [hmore _ (by omega) hk]
      exact ih (k + 1) hk (by omega)
    · have hlast : bytes.getLast? = some bytes[k] := by
        rw [List.getLast?_eq_getElem?, show bytes.length - 1 = k by omega, List.getElem?_eq_getElem h1]
      rw [show bytes.take (k + 1) = bytes from List.take_of_length_le (by omega), hlast]
      refine ⟨fun hd => by rw [hd]; rfl, fun b hd => ?_⟩
      rw [hd]
      simp only [Option.some.injEq, eq_comm]

/-- `Decode` of `ILL2` gives instructions of `ILL2` alone (R222). -/
theorem targetDecode_ill2 {l : List Byte} {d : Decoded} (h : targetDecode .ill2 l = some d) :
    (∃ imm, d = .ldiA imm) ∨ d = .hlt := by
  unfold targetDecode at h
  cases hs : decodeStream l with
  | error e => simp [hs] at h
  | ok i =>
    simp only [hs] at h
    cases i <;> simp only [decodedOf, reduceCtorEq, Option.some.injEq] at h
    · exact Or.inl ⟨_, h.symm⟩
    · exact Or.inr h.symm

/-- The fault halt, in the terms of the statements (R294). -/
theorem takeFault_eq (s : State) (c : Condition) : takeFault s c = s.faultHalted c := rfl

/-! ## The end of an instruction -/

/-- What an `Exec` keeps of the state (R222 (c)). -/
theorem runTree_keeps_sequencer (t : ExecTree) (s : State) :
    (runTree t s).Reached fun x =>
      x.pstate = s.pstate ∧ x.dbg = s.dbg ∧ x.dbgAnswers = s.dbgAnswers ∧ x.dbgCount = s.dbgCount ∧
        x.instrIndex = s.instrIndex ∧ x.haltCause = s.haltCause := by
  have h := runTree_frame t s
  cases hr : runTree t s with
  | ends s' o =>
    rw [hr] at h
    have h2 : s' = _ := h
    show _ ∧ _
    rw [h2]
    simp [State.withMachine]
  | raised s' c =>
    rw [hr] at h
    have h2 : s' = _ := h
    show _ ∧ _
    rw [h2]
    simp [State.withMachine]
  | refused r => trivial
  | neverEnds => trivial

/-- `LDI A` on a register file that has the accumulator (R223). -/
theorem runTree_ldiA (s : State) (imm : Byte) (a : RegCell) (ha : s.regs.cell? .a = some a) (hw : a.width = .w8) :
    runTree (ldiATree imm) s = .ends (s.withRegs (s.regs.setCell .a (imm.setWidth 64))) .cont := by
  have h : (imm.setWidth 64).toNat < 2 ^ 8 := by
    have := imm.isLt
    simp
    omega
  simp only [ldiATree, runTree, writeRegisterExact, RegFile.width?, ha, hw, Width.bits, h, if_true, RegFile.write,
    Option.map_some]

end Sys2Proof.Machine
end

