-- ==== Sys2Proof/Laws/PerInstr.lean ====
section
/-! SUPPORT. One lemma per instruction: its encoding begins with the code of its row of spec/opcode_table.json. -/

namespace Sys2Proof.Laws

/-- The code of an instruction's row: the row's `match`, and for `LDI A` its byte 0. -/
def tableCode : Instr → Byte
  | .fetch8 _ => 0x00
  | .fetch16 _ => 0x01
  | .fetch32 _ => 0x02
  | .fetch64 _ => 0x03
  | .store8 _ _ => 0x04
  | .store16 _ _ => 0x05
  | .store32 _ _ => 0x06
  | .store64 _ _ => 0x07
  | .in8 _ => 0x10
  | .in16 _ => 0x11
  | .in32 _ => 0x12
  | .in64 _ => 0x13
  | .out8 _ _ => 0x14
  | .out16 _ _ => 0x15
  | .out32 _ _ => 0x16
  | .out64 _ _ => 0x17
  | .dfetch8 _ _ => 0x20
  | .dfetch16 _ _ => 0x21
  | .dfetch32 _ _ => 0x22
  | .dfetch64 _ _ => 0x23
  | .dstore8 _ _ _ => 0x24
  | .dstore16 _ _ _ => 0x25
  | .dstore32 _ _ _ => 0x26
  | .dstore64 _ _ _ => 0x27
  | .din8 _ _ => 0x30
  | .din16 _ _ => 0x31
  | .din32 _ _ => 0x32
  | .din64 _ _ => 0x33
  | .dout8 _ _ _ => 0x34
  | .dout16 _ _ _ => 0x35
  | .dout32 _ _ _ => 0x36
  | .dout64 _ _ _ => 0x37
  | .regm _ _ _ => 0x40
  | .regio _ _ _ => 0x50
  | .dload _ _ => 0x41
  | .rdreg _ => 0x80
  | .wrreg _ _ => 0x81
  | .getregs => 0x82
  | .printregs _ => 0x83
  | .setup _ _ => 0xC0
  | .reset => 0xC1
  | .fetchi => 0xC2
  | .decodei => 0xC3
  | .execi => 0xC4
  | .setupdebug _ => 0xC5
  | .stopdebug => 0xC6
  | .asm _ => 0xC7
  | .disasm _ => 0xC8
  | .build _ => 0xD0
  | .start => 0xD1
  | .stop => 0xD2
  | .initthread => 0xD3
  | .exitthread => 0xD4
  | .flushthread => 0xD5
  | .workerstep => 0xD6
  | .ldiA _ => 0x3E
  | .hlt => 0x76

/-- The command code or the opcode byte of an encoding. -/
def firstByte : Encoded → Option Byte
  | .port c => some c.op
  | .stream l => l.head?

/-- The encoding of an instruction begins with the code of its row of the table. -/
def TableWord.Statement (i : Instr) : Prop := firstByte (encode i) = some (tableCode i)

theorem TableWord.fetch8 (addr : Nat) : TableWord.Statement (.fetch8 addr) := rfl
theorem TableWord.fetch16 (addr : Nat) : TableWord.Statement (.fetch16 addr) := rfl
theorem TableWord.fetch32 (addr : Nat) : TableWord.Statement (.fetch32 addr) := rfl
theorem TableWord.fetch64 (addr : Nat) : TableWord.Statement (.fetch64 addr) := rfl
theorem TableWord.store8 (addr : Nat) (data : BitVec 8) : TableWord.Statement (.store8 addr data) := rfl
theorem TableWord.store16 (addr : Nat) (data : BitVec 16) : TableWord.Statement (.store16 addr data) := rfl
theorem TableWord.store32 (addr : Nat) (data : BitVec 32) : TableWord.Statement (.store32 addr data) := rfl
theorem TableWord.store64 (addr : Nat) (data : BitVec 64) : TableWord.Statement (.store64 addr data) := rfl
theorem TableWord.in8 (addr : Nat) : TableWord.Statement (.in8 addr) := rfl
theorem TableWord.in16 (addr : Nat) : TableWord.Statement (.in16 addr) := rfl
theorem TableWord.in32 (addr : Nat) : TableWord.Statement (.in32 addr) := rfl
theorem TableWord.in64 (addr : Nat) : TableWord.Statement (.in64 addr) := rfl
theorem TableWord.out8 (addr : Nat) (data : BitVec 8) : TableWord.Statement (.out8 addr data) := rfl
theorem TableWord.out16 (addr : Nat) (data : BitVec 16) : TableWord.Statement (.out16 addr data) := rfl
theorem TableWord.out32 (addr : Nat) (data : BitVec 32) : TableWord.Statement (.out32 addr data) := rfl
theorem TableWord.out64 (addr : Nat) (data : BitVec 64) : TableWord.Statement (.out64 addr data) := rfl
theorem TableWord.dfetch8 (dev off : Nat) : TableWord.Statement (.dfetch8 dev off) := rfl
theorem TableWord.dfetch16 (dev off : Nat) : TableWord.Statement (.dfetch16 dev off) := rfl
theorem TableWord.dfetch32 (dev off : Nat) : TableWord.Statement (.dfetch32 dev off) := rfl
theorem TableWord.dfetch64 (dev off : Nat) : TableWord.Statement (.dfetch64 dev off) := rfl
theorem TableWord.dstore8 (dev off : Nat) (data : BitVec 8) : TableWord.Statement (.dstore8 dev off data) := rfl
theorem TableWord.dstore16 (dev off : Nat) (data : BitVec 16) : TableWord.Statement (.dstore16 dev off data) := rfl
theorem TableWord.dstore32 (dev off : Nat) (data : BitVec 32) : TableWord.Statement (.dstore32 dev off data) := rfl
theorem TableWord.dstore64 (dev off : Nat) (data : BitVec 64) : TableWord.Statement (.dstore64 dev off data) := rfl
theorem TableWord.din8 (dev off : Nat) : TableWord.Statement (.din8 dev off) := rfl
theorem TableWord.din16 (dev off : Nat) : TableWord.Statement (.din16 dev off) := rfl
theorem TableWord.din32 (dev off : Nat) : TableWord.Statement (.din32 dev off) := rfl
theorem TableWord.din64 (dev off : Nat) : TableWord.Statement (.din64 dev off) := rfl
theorem TableWord.dout8 (dev off : Nat) (data : BitVec 8) : TableWord.Statement (.dout8 dev off data) := rfl
theorem TableWord.dout16 (dev off : Nat) (data : BitVec 16) : TableWord.Statement (.dout16 dev off data) := rfl
theorem TableWord.dout32 (dev off : Nat) (data : BitVec 32) : TableWord.Statement (.dout32 dev off data) := rfl
theorem TableWord.dout64 (dev off : Nat) (data : BitVec 64) : TableWord.Statement (.dout64 dev off data) := rfl
theorem TableWord.regm (dev base size : Nat) : TableWord.Statement (.regm dev base size) := rfl
theorem TableWord.regio (dev base size : Nat) : TableWord.Statement (.regio dev base size) := rfl
theorem TableWord.dload (dev : Nat) (bytes : List Byte) : TableWord.Statement (.dload dev bytes) := rfl
theorem TableWord.rdreg (name : RegName) : TableWord.Statement (.rdreg name) := rfl
theorem TableWord.wrreg (name : RegName) (data : Word) : TableWord.Statement (.wrreg name data) := rfl
theorem TableWord.getregs : TableWord.Statement (.getregs) := rfl
theorem TableWord.printregs (stream : Nat) : TableWord.Statement (.printregs stream) := rfl
theorem TableWord.setup (m i : Space) : TableWord.Statement (.setup m i) := rfl
theorem TableWord.reset : TableWord.Statement (.reset) := rfl
theorem TableWord.fetchi : TableWord.Statement (.fetchi) := rfl
theorem TableWord.decodei : TableWord.Statement (.decodei) := rfl
theorem TableWord.execi : TableWord.Statement (.execi) := rfl
theorem TableWord.setupdebug (callback : Nat) : TableWord.Statement (.setupdebug callback) := rfl
theorem TableWord.stopdebug : TableWord.Statement (.stopdebug) := rfl
theorem TableWord.asm (text : Text) : TableWord.Statement (.asm text) := rfl
theorem TableWord.disasm (bytes : List Byte) : TableWord.Statement (.disasm bytes) := rfl
theorem TableWord.build (arg : BuildArg) : TableWord.Statement (.build arg) := rfl
theorem TableWord.start : TableWord.Statement (.start) := rfl
theorem TableWord.stop : TableWord.Statement (.stop) := rfl
theorem TableWord.initthread : TableWord.Statement (.initthread) := rfl
theorem TableWord.exitthread : TableWord.Statement (.exitthread) := rfl
theorem TableWord.flushthread : TableWord.Statement (.flushthread) := rfl
theorem TableWord.workerstep : TableWord.Statement (.workerstep) := rfl
theorem TableWord.ldiA (imm8 : Byte) : TableWord.Statement (.ldiA imm8) := rfl
theorem TableWord.hlt : TableWord.Statement (.hlt) := rfl

end Sys2Proof.Laws
end

