-- ==== Sys2Proof/Laws/Turn.lean ====
section
/-! SUPPORT. What a step can do: the inversion of the schedule. -/

namespace Sys2Proof.Machine

/-- What a turn of the worker with a scheduled step comes to: the exit at the boundary, the end of an iteration with its
ticks, or the step alone (R253, R258). -/
theorem workerPart_cases (i : Instr) (s : State) :
    (i = .fetchi ∧ stopsAtBoundary s = true ∧ workerPart i s = .run .workerstep s) ∨
    (i = .execi ∧ s.inFlight = true ∧ workerPart i s = .runThenTick i s) ∨
    (¬(i = .fetchi ∧ stopsAtBoundary s = true) ∧ ¬(i = .execi ∧ s.inFlight = true) ∧ workerPart i s = .run i s) := by
  unfold workerPart
  by_cases h : i = .fetchi ∧ stopsAtBoundary s = true
  · exact Or.inl ⟨h.1, h.2, if_pos h⟩
  · by_cases h' : i = .execi ∧ s.inFlight = true
    · exact Or.inr (Or.inl ⟨h'.1, h'.2, by rw [if_neg h, if_pos h']⟩)
    · exact Or.inr (Or.inr ⟨h, h', by rw [if_neg h, if_neg h']⟩)

/-- A worker that stops at a boundary is one the test of R253 lets exit there. -/
theorem exits_of_stops {s : State} (h : stopsAtBoundary s = true) :
    s.dying = true ∧ s.pstate ≠ .halted ∧ exitsAtBoundary s = true := by
  simpa [stopsAtBoundary, and_assoc, and_comm, and_left_comm] using h

/-- At a halted Processor the worker's scheduled steps are themselves (R225). -/
theorem workerPart_halted {i : Instr} {s : State} (h : s.pstate = .halted) : workerPart i s = .run i s := by
  simp [workerPart, stopsAtBoundary, State.inFlight, h]

/-- All that a step that goes on can be (R15, R299): the block waits; the worker takes an iteration of its loop unasked;
the worker takes a scheduled step of its own, which is its exit where it stands at a boundary and is asked to stop, and is
followed by the ticks where it ends an iteration; the controller's scheduled command runs. -/
theorem step_next {s t : State} (h : step s = .next t) :
    (s.port = [] ∧ s.active = false ∧ t = s) ∨
    ((s.port = [] ∧ s.active = true ∨ s.blocked = true) ∧ exec .workerstep s = .next t) ∨
    (∃ c rest i, s.port = ⟨.worker, c⟩ :: rest ∧ decodeCommand c = .ok i ∧ workerOnly i = true ∧ s.active = true ∧
      (i = .fetchi ∧ stopsAtBoundary s = true ∧ exec .workerstep (s.withPort rest) = .next t ∨
        i = .execi ∧ s.inFlight = true ∧ ticksAfter (exec .execi (s.withPort rest)) = .next t ∨
        exec i (s.withPort rest) = .next t)) ∨
    (∃ c rest i, s.port = ⟨.controller, c⟩ :: rest ∧ s.blocked = false ∧ decodeCommand c = .ok i ∧
      workerOnly i = false ∧ (s.built = true ∨ isBuildOp c.op = true) ∧ exec i (s.withPort rest) = .next t) := by
  unfold step at h
  cases hp : s.port with
  | nil =>
    cases ha : s.active
    · simp [nextTurn, hp, ha] at h
      exact Or.inl ⟨rfl, rfl, h.symm⟩
    · simp only [nextTurn, hp, ha] at h
      exact Or.inr (Or.inl ⟨Or.inl ⟨rfl, rfl⟩, h⟩)
  | cons e rest =>
    obtain ⟨agent, c⟩ := e
    cases agent with
    | controller =>
      cases hb : s.blocked
      · simp only [nextTurn, hp, hb, controllerTurn] at h
        cases hd : decodeCommand c with
        | error e => simp [hd] at h
        | ok i =>
          simp only [hd] at h
          cases hw : workerOnly i
          · cases hbu : s.built
            · cases ho : isBuildOp c.op
              · simp [hw, hbu, ho] at h
              · simp only [hw, withPort_built, hbu, ho] at h
                exact Or.inr (Or.inr (Or.inr ⟨c, rest, i, rfl, rfl, hd, hw, Or.inr ho, by simpa using h⟩))
            · simp only [hw, withPort_built, hbu] at h
              exact Or.inr (Or.inr (Or.inr ⟨c, rest, i, rfl, rfl, hd, hw, Or.inl rfl, by simpa using h⟩))
          · simp [hw] at h
      · simp only [nextTurn, hp, hb] at h
        exact Or.inr (Or.inl ⟨Or.inr rfl, h⟩)
    | worker =>
      simp only [nextTurn, hp, workerTurn] at h
      cases hd : decodeCommand c with
      | error e => simp [hd] at h
      | ok i =>
        simp only [hd] at h
        cases hw : workerOnly i
        · simp [hw] at h
        · cases ha : s.active
          · have : (s.withPort rest).active = false := ha
            simp [hw, this] at h
          · have : (s.withPort rest).active = true := ha
            simp only [hw, this, Bool.not_true, Bool.false_eq_true, if_false, if_true] at h
            refine Or.inr (Or.inr (Or.inl ⟨c, rest, i, rfl, hd, hw, rfl, ?_⟩))
            rcases workerPart_cases i (s.withPort rest) with ⟨hi, he, hp⟩ | ⟨rfl, hf, hp⟩ | ⟨_, _, hp⟩ <;>
              rw [hp] at h
            · exact Or.inl ⟨hi, he, h⟩
            · exact Or.inr (Or.inl ⟨rfl, hf, h⟩)
            · exact Or.inr (Or.inr h)

end Sys2Proof.Machine
end

