-- ==== Sys2Proof/Tests/Slice0.lean ====
section
/-! SUPPORT. Tests: the well-formedness checks, words written out from the spec's encodings, one-step vectors of
spec/95_test_vectors.md, and a witness for the hypotheses of every statement. -/

namespace Sys2Proof.Machine.Tests

/-! ## Fixtures (spec/95_test_vectors.md) -/

/-- The block with the spec's fixtures beside `CFG_ILL`: 2 `RAM8`, 3 `RAM8B`, 4 `ROM4`, 5 `IOP4` at `IO` `(0x10, 4)`, 6 a
fresh ROM, 7 a RAM of size 4 at `MEM` `(0x2000, 8)`, 8 an IOPort of size 8, Big, at `IO` `(0x20, 8)`. -/
def bench : State :=
  { State.reset with
    devices := State.reset.devices ++
      [{ kind := .ram, base := 0, size := 8, policy := .readWrite, order := .little,
         storage := { fill := 0, cells := [(0, 0xDD), (1, 0xCC), (2, 0xBB), (3, 0xAA)] }, loaded := false },
       { kind := .ram, base := 0, size := 8, policy := .readWrite, order := .big,
         storage := { fill := 0, cells := [(0, 0xDD), (1, 0xCC), (2, 0xBB), (3, 0xAA)] }, loaded := false },
       { kind := .rom, base := 0, size := 4, policy := .readOnly, order := .little,
         storage := { fill := 0, cells := [(0, 1), (1, 2), (2, 3), (3, 4)] }, loaded := true },
       { kind := .ioPort, base := 0x10, size := 4, policy := .readWrite, order := .little,
         storage := { fill := 0, cells := [(0, 0x11), (1, 0x22), (2, 0x33), (3, 0x44)] }, loaded := false },
       { kind := .rom, base := 0, size := 4, policy := .readOnly, order := .little,
         storage := { fill := 0xEE, cells := [] }, loaded := false },
       { kind := .ram, base := 0x2000, size := 4, policy := .readWrite, order := .little,
         storage := { fill := 0, cells := [(3, 0x77)] }, loaded := false },
       { kind := .ioPort, base := 0x20, size := 8, policy := .readWrite, order := .big,
         storage := { fill := 0, cells := [] }, loaded := false }]
    memEntries := State.reset.memEntries ++ [{ dev := 7, base := 0x2000, size := 8 }]
    ioEntries := [{ dev := 5, base := 0x10, size := 4 }, { dev := 8, base := 0x20, size := 8 }] }

/-- `RF_PAIR` with `W = 0x1234` (R199). -/
def pair : State :=
  { State.reset with
    regs :=
      { cells := [{ name := .w, width := .w16, reset := 0, val := 0x1234 },
                  { name := .pc, width := .w16, reset := 0, val := 0 }]
        halves := [{ name := .wh, parent := .w, part := .hi }, { name := .wl, parent := .w, part := .lo }]
        pcName := .pc } }

/-- The worker about to fetch at an address. -/
def runningAt (pc : Word) : State :=
  { State.reset with lifecycle := .running, regs := State.reset.regs.setPc pc }

/-- A Processor in `Executing` with a decoded instruction. -/
def executing (d : Decoded) : State :=
  { runningAt 0x1002 with pstate := .executing, decoded := some d, ibuf := [0x3E, 0x05] }

/-- A Processor that `HLT` has halted. -/
def halted : State := { runningAt 0x1003 with pstate := .halted, haltCause := .haltInstruction, instrIndex := 2 }

/-- The worker with `LDI A` of the ROM fetched: an instruction in flight. -/
def fetched : State :=
  { runningAt 0x1002 with pstate := .decoding, ibuf := [0x3E, 0x05] }

/-- A command with an operand only. -/
def command (op : Byte) (arg : Arg) : Command := { op, dev := 0, addr := 0, data := 0, arg }

/-- The block with one entry in its schedule. -/
def scheduled (agent : Agent) (c : Command) (s : State) : State := { s with port := [⟨agent, c⟩] }

/-- The block before `BUILD`. -/
def unbuilt : State := { State.reset with built := false }

/-- `BUILD`'s operand with another layout. -/
def buildOf (config : List ConfigEntry) : BuildArg := { Config.cfgIll with config }

/-- An element of a layout, zero-filled, without initial contents. -/
def element (kind : DeviceKind) (base size : Nat) : ConfigEntry :=
  { kind, base, size, order := .little, init := Config.zeroInit, initialContents := none }

/-- The next state of an instruction, or the state itself where there is none. -/
def after (i : Instr) (s : State) : State :=
  match exec i s with
  | .next t => t
  | .fault _ => s
  | .refused _ => s

/-- The response of an instruction. -/
def response (i : Instr) (s : State) : Option Response :=
  match exec i s with
  | .next t => some t.response
  | .fault _ => none
  | .refused _ => none

/-- The response of a read. -/
def value (w : Width) (v : Word) : Option Response := some { cond := none, value := .data w v }

/-- The response that reports a condition. -/
def raised (c : Condition) : Option Response := some { cond := some c, value := .none }

/-- The response of a command that answers nothing. -/
def done : Option Response := some { cond := none, value := .none }

/-- The bytes of a Device after an instruction. -/
def bytesAfter (i : Instr) (s : State) (dev off n : Nat) : List Byte :=
  (List.range n).map fun k => (after i s).storageByte dev (off + k)

/-- The refusal of an instruction. -/
def refusal (i : Instr) (s : State) : Option Refusal :=
  match exec i s with
  | .next _ => none
  | .fault _ => none
  | .refused r => some r

/-! ## Well-formedness: an ill-formed term for each check -/

theorem test_wf_fetch_address : Instr.wf 16 8 (.fetch8 0x10000) = false := by decide
theorem test_wf_store_address : Instr.wf 16 8 (.store64 0x10000 0) = false := by decide
theorem test_wf_in_address : Instr.wf 16 8 (.in16 0x100) = false := by decide
theorem test_wf_out_address : Instr.wf 16 8 (.out32 0x100 0) = false := by decide
theorem test_wf_last_address : Instr.wf 16 8 (.fetch64 0xFFFF) = true ∧ Instr.wf 16 8 (.in8 0xFF) = true := by decide
theorem test_wf_regm_empty : Instr.wf 16 8 (.regm 2 0x2000 0) = false := by decide
theorem test_wf_regm_beyond : Instr.wf 16 8 (.regm 2 0xFFF0 0x20) = false := by decide
theorem test_wf_regio_beyond : Instr.wf 16 8 (.regio 2 0xF0 0x20) = false := by decide
theorem test_wf_setup_spaces : Instr.wf 16 16 (.setup .io .mem) = false := by decide
theorem test_wf_build : Instr.wf 16 16 (.build Config.cfgIll) = true := by decide
theorem test_wf_build_address_width : ({ Config.cfgIll with awMem := 0 } : BuildArg).wf = false := by decide
theorem test_wf_build_port_width : ({ Config.cfgIll with awIo := 0 } : BuildArg).wf = false := by decide
theorem test_wf_build_frequency : ({ Config.cfgIll with freqHz := 0 } : BuildArg).wf = false := by decide
theorem test_wf_build_empty_device : (buildOf [element .ram 0 0]).wf = false := by decide
theorem test_wf_build_range : (buildOf [element .ram 0xFFFF 2]).wf = false := by decide
theorem test_wf_build_init :
    (buildOf [{ element .ram 0 2 with init := { fill := 0, bytes := [1, 2, 3] } }]).wf = false := by decide
theorem test_wf_build_spare :
    ({ Config.cfgIll with spares := [⟨.rom, 0, .little, Config.zeroInit⟩] } : BuildArg).wf = false := by decide
theorem test_wf_registers : (Config.rfPair).wf 16 = true ∧ (Config.rfIll2 0x1000).wf 16 = true := by decide
theorem test_wf_registers_names : (RegSpec.mk [.storage .a .w8 0, .storage .a .w16 0] .a).wf 16 = false := by decide
theorem test_wf_registers_reset : (RegSpec.mk [.storage .a .w8 0x100, .storage .pc .w16 0] .pc).wf 16 = false := by decide
theorem test_wf_registers_one_half :
    (RegSpec.mk [.storage .w .w16 0, .half .wh .w .hi, .storage .pc .w16 0] .pc).wf 16 = false := by decide
theorem test_wf_registers_narrow_parent :
    (RegSpec.mk [.storage .w .w8 0, .half .wh .w .hi, .half .wl .w .lo, .storage .pc .w16 0] .pc).wf 16 = false := by
  decide
theorem test_wf_registers_no_parent :
    (RegSpec.mk [.half .wh .w .hi, .half .wl .w .lo, .storage .pc .w16 0] .pc).wf 16 = false := by decide
theorem test_wf_registers_no_pc : (RegSpec.mk [.storage .a .w8 0] .pc).wf 16 = false := by decide
theorem test_wf_registers_wide_pc : (RegSpec.mk [.storage .pc .w32 0] .pc).wf 16 = false := by decide

/-! ## Decoding: a word of every constructor, from R91 to R93 and R96 -/

theorem test_decode_fetch :
    decodeCommand ⟨0b00000000, 0, 7, 0, .none⟩ = .ok (.fetch8 7) ∧
    decodeCommand ⟨0b00000001, 0, 7, 0, .none⟩ = .ok (.fetch16 7) ∧
    decodeCommand ⟨0b00000010, 0, 7, 0, .none⟩ = .ok (.fetch32 7) ∧
    decodeCommand ⟨0b00000011, 0, 7, 0, .none⟩ = .ok (.fetch64 7) := by decide
theorem test_decode_store :
    decodeCommand ⟨0b00000100, 0, 7, 0x1AB, .none⟩ = .ok (.store8 7 0xAB) ∧
    decodeCommand ⟨0b00000101, 0, 7, 0x1ABCD, .none⟩ = .ok (.store16 7 0xABCD) ∧
    decodeCommand ⟨0b00000110, 0, 7, 0x1ABCD1234, .none⟩ = .ok (.store32 7 0xABCD1234) ∧
    decodeCommand ⟨0b00000111, 0, 7, 0xFEDCBA9876543210, .none⟩ = .ok (.store64 7 0xFEDCBA9876543210) := by decide
theorem test_decode_in :
    decodeCommand ⟨0b00010000, 0, 7, 0, .none⟩ = .ok (.in8 7) ∧
    decodeCommand ⟨0b00010001, 0, 7, 0, .none⟩ = .ok (.in16 7) ∧
    decodeCommand ⟨0b00010010, 0, 7, 0, .none⟩ = .ok (.in32 7) ∧
    decodeCommand ⟨0b00010011, 0, 7, 0, .none⟩ = .ok (.in64 7) := by decide
theorem test_decode_out :
    decodeCommand ⟨0b00010100, 0, 7, 0xAB, .none⟩ = .ok (.out8 7 0xAB) ∧
    decodeCommand ⟨0b00010101, 0, 7, 0xABCD, .none⟩ = .ok (.out16 7 0xABCD) ∧
    decodeCommand ⟨0b00010110, 0, 7, 0xABCD1234, .none⟩ = .ok (.out32 7 0xABCD1234) ∧
    decodeCommand ⟨0b00010111, 0, 7, 0xFEDCBA9876543210, .none⟩ = .ok (.out64 7 0xFEDCBA9876543210) := by decide
theorem test_decode_dfetch :
    decodeCommand ⟨0b00100000, 3, 7, 0, .none⟩ = .ok (.dfetch8 3 7) ∧
    decodeCommand ⟨0b00100001, 3, 7, 0, .none⟩ = .ok (.dfetch16 3 7) ∧
    decodeCommand ⟨0b00100010, 3, 7, 0, .none⟩ = .ok (.dfetch32 3 7) ∧
    decodeCommand ⟨0b00100011, 3, 7, 0, .none⟩ = .ok (.dfetch64 3 7) := by decide
theorem test_decode_dstore :
    decodeCommand ⟨0b00100100, 3, 7, 0xAB, .none⟩ = .ok (.dstore8 3 7 0xAB) ∧
    decodeCommand ⟨0b00100101, 3, 7, 0xABCD, .none⟩ = .ok (.dstore16 3 7 0xABCD) ∧
    decodeCommand ⟨0b00100110, 3, 7, 0xABCD1234, .none⟩ = .ok (.dstore32 3 7 0xABCD1234) ∧
    decodeCommand ⟨0b00100111, 3, 7, 0xFEDCBA9876543210, .none⟩ = .ok (.dstore64 3 7 0xFEDCBA9876543210) := by decide
theorem test_decode_din :
    decodeCommand ⟨0b00110000, 3, 7, 0, .none⟩ = .ok (.din8 3 7) ∧
    decodeCommand ⟨0b00110001, 3, 7, 0, .none⟩ = .ok (.din16 3 7) ∧
    decodeCommand ⟨0b00110010, 3, 7, 0, .none⟩ = .ok (.din32 3 7) ∧
    decodeCommand ⟨0b00110011, 3, 7, 0, .none⟩ = .ok (.din64 3 7) := by decide
theorem test_decode_dout :
    decodeCommand ⟨0b00110100, 3, 7, 0xAB, .none⟩ = .ok (.dout8 3 7 0xAB) ∧
    decodeCommand ⟨0b00110101, 3, 7, 0xABCD, .none⟩ = .ok (.dout16 3 7 0xABCD) ∧
    decodeCommand ⟨0b00110110, 3, 7, 0xABCD1234, .none⟩ = .ok (.dout32 3 7 0xABCD1234) ∧
    decodeCommand ⟨0b00110111, 3, 7, 0xFEDCBA9876543210, .none⟩ = .ok (.dout64 3 7 0xFEDCBA9876543210) := by decide
theorem test_decode_configuration :
    decodeCommand ⟨0b01000000, 2, 0x1100, 0, .size 0x10⟩ = .ok (.regm 2 0x1100 0x10) ∧
    decodeCommand ⟨0b01010000, 2, 0x10, 0, .size 4⟩ = .ok (.regio 2 0x10 4) ∧
    decodeCommand ⟨0b01000001, 2, 0, 0, .bytes [0x3E, 0x05]⟩ = .ok (.dload 2 [0x3E, 0x05]) := by decide
theorem test_decode_registers :
    decodeCommand (command 0b10000000 (.reg .wh)) = .ok (.rdreg .wh) ∧
    decodeCommand ⟨0b10000001, 0, 0, 0xFF, .reg .wl⟩ = .ok (.wrreg .wl 0xFF) ∧
    decodeCommand (command 0b10000010 .none) = .ok .getregs ∧
    decodeCommand (command 0b10000011 (.stream 1)) = .ok (.printregs 1) := by decide
theorem test_decode_processor :
    decodeCommand (command 0b11000000 (.spaces .mem .io)) = .ok (.setup .mem .io) ∧
    decodeCommand (command 0b11000001 .none) = .ok .reset ∧
    decodeCommand (command 0b11000010 .none) = .ok .fetchi ∧
    decodeCommand (command 0b11000011 .none) = .ok .decodei ∧
    decodeCommand (command 0b11000100 .none) = .ok .execi ∧
    decodeCommand (command 0b11000101 (.callback 1)) = .ok (.setupdebug 1) ∧
    decodeCommand (command 0b11000110 .none) = .ok .stopdebug ∧
    decodeCommand (command 0b11000111 (.text ['H', 'L', 'T'])) = .ok (.asm ['H', 'L', 'T']) ∧
    decodeCommand (command 0b11001000 (.bytes [0x76])) = .ok (.disasm [0x76]) := by decide
theorem test_decode_engine :
    decodeCommand (command 0b11010000 (.config Config.cfgIll)) = .ok (.build Config.cfgIll) ∧
    decodeCommand (command 0b11010001 .none) = .ok .start ∧
    decodeCommand (command 0b11010010 .none) = .ok .stop ∧
    decodeCommand (command 0b11010011 .none) = .ok .initthread ∧
    decodeCommand (command 0b11010100 .none) = .ok .exitthread ∧
    decodeCommand (command 0b11010101 .none) = .ok .flushthread ∧
    decodeCommand (command 0b11010110 .none) = .ok .workerstep := by decide
theorem test_decode_stream :
    decodeStream [0b00111110, 0b00000101] = .ok (.ldiA 0x05) ∧ decodeStream [0b01110110] = .ok .hlt ∧
    decodeStream [0x3E] = .error .incomplete ∧ decodeStream [0x76, 0x76] = .error .trailingBytes ∧
    decodeStream [0xFF] = .error (.unknownOpcode 0xFF) ∧ decodeStream [] = .error .incomplete := by decide

/-- D-C4 to D-C7: reserved codes. -/
theorem test_decode_reserved :
    ∀ op ∈ [0x08, 0x18, 0x28, 0x38, 0x42, 0x51, 0x84, 0xC9, 0xD7, 0xE0, (0xFF : Byte)],
      decodeCommand (command op .none) = .error (.reservedOp op) := by decide
/-- The model's choices of notes/assumptions/20.md. -/
theorem test_decode_operand : decodeCommand (command 0x80 .none) = .error (.badOperand 0x80) ∧
    decodeCommand ⟨0x82, 7, 7, 7, .size 7⟩ = .ok .getregs := by decide
/-- R98, R99: the byte of `Unknown` is the last one of the list. -/
theorem test_len_step : ill2LenStep [0xFF] = .unknown 0xFF ∧ ill2LenStep [0x76, 0x12] = .unknown 0x12 ∧
    ill2LenStep [0x3E, 0x05, 0x34] = .unknown 0x34 ∧ ill2LenStep [0x3E, 0x05, 0x34, 0x56] = .unknown 0x56 := by decide
theorem test_table_word :
    decodeTableWord 8 0x25 = some (.dstore16 0 0 0) ∧ decodeTableWord 16 0x3E05 = some (.ldiA 5) ∧
    decodeTableWord 8 0x76 = some .hlt ∧ decodeTableWord 8 0x08 = none := by decide

/-! ## The Device family (D-D1 to D-D26) -/

theorem test_dfetch8 : response (.dfetch8 2 3) bench = value .w8 0xAA ∧
    response (.dfetch8 2 8) bench = raised (.outOfRange 8 8 none) := by decide
theorem test_dfetch16 : response (.dfetch16 2 1) bench = value .w16 0xBBCC ∧
    response (.dfetch16 3 1) bench = value .w16 0xCCBB ∧
    response (.dfetch16 2 7) bench = raised (.outOfRange 7 8 (some (7, 9))) := by decide
theorem test_dfetch32 : response (.dfetch32 2 0) bench = value .w32 0xAABBCCDD ∧
    response (.dfetch32 3 0) bench = value .w32 0xDDCCBBAA ∧
    response (.dfetch32 4 0) bench = value .w32 0x04030201 := by decide
theorem test_dfetch64 : response (.dfetch64 2 0) bench = value .w64 0x00000000AABBCCDD ∧
    response (.dfetch64 3 0) bench = value .w64 0xDDCCBBAA00000000 ∧
    response (.dfetch64 2 1) bench = raised (.outOfRange 1 8 (some (1, 9))) := by decide
theorem test_dstore8 : bytesAfter (.dstore8 2 7 0x5A) bench 2 0 8 = [0xDD, 0xCC, 0xBB, 0xAA, 0, 0, 0, 0x5A] := by
  decide
theorem test_dstore8_rom : response (.dstore8 4 100 0) bench = raised (.writeProtected 100 .w8) ∧
    bytesAfter (.dstore8 4 0 0xFF) bench 4 0 4 = [1, 2, 3, 4] := by decide
theorem test_dstore16 : bytesAfter (.dstore16 2 3 0x1234) bench 2 0 8 = [0xDD, 0xCC, 0xBB, 0x34, 0x12, 0, 0, 0] ∧
    bytesAfter (.dstore16 3 3 0x1234) bench 3 0 8 = [0xDD, 0xCC, 0xBB, 0x12, 0x34, 0, 0, 0] := by decide
theorem test_dstore16_beyond : response (.dstore16 2 7 0xFFFF) bench = raised (.outOfRange 7 8 (some (7, 9))) ∧
    bytesAfter (.dstore16 2 7 0xFFFF) bench 2 7 1 = [0] := by decide
theorem test_dstore32 : bytesAfter (.dstore32 2 2 0xAABBCCDD) bench 2 2 4 = [0xDD, 0xCC, 0xBB, 0xAA] ∧
    bytesAfter (.dstore32 3 2 0xAABBCCDD) bench 3 2 4 = [0xAA, 0xBB, 0xCC, 0xDD] := by decide
theorem test_dstore32_rom : response (.dstore32 4 100 0) bench = raised (.writeProtected 100 .w32) := by decide
theorem test_dstore64 : bytesAfter (.dstore64 2 0 0x0102030405060708) bench 2 0 8 = [8, 7, 6, 5, 4, 3, 2, 1] ∧
    bytesAfter (.dstore64 3 0 0x0102030405060708) bench 3 0 8 = [1, 2, 3, 4, 5, 6, 7, 8] := by decide
/-- D-D14, mixed widths (R62). -/
theorem test_mixed_widths : response (.dfetch16 2 1) (after (.dstore32 2 0 0x11223344) bench) = value .w16 0x2233 := by
  decide
theorem test_din8 : response (.din8 5 0) bench = value .w8 0x11 := by decide
theorem test_din16 : response (.din16 5 2) bench = value .w16 0x4433 := by decide
theorem test_din32 : response (.din32 5 0) bench = value .w32 0x44332211 := by decide
theorem test_din64 : response (.din64 5 0) bench = raised (.outOfRange 0 4 (some (0, 8))) := by decide
theorem test_dout8 : bytesAfter (.dout8 5 0 0xEE) bench 5 0 4 = [0xEE, 0x22, 0x33, 0x44] := by decide
theorem test_dout16 : response (.dout16 5 3 0) bench = raised (.outOfRange 3 4 (some (3, 5))) ∧
    bytesAfter (.dout16 5 2 0xBEEF) bench 5 0 4 = [0x11, 0x22, 0xEF, 0xBE] := by decide
theorem test_dout32 : bytesAfter (.dout32 5 0 0xA1B2C3D4) bench 5 0 4 = [0xD4, 0xC3, 0xB2, 0xA1] := by decide
theorem test_dout64 : response (.dout64 5 0 0) bench = raised (.outOfRange 0 4 (some (0, 8))) := by decide
theorem test_dload : bytesAfter (.dload 6 [0x3E, 0x05, 0x76]) bench 6 0 4 = [0x3E, 0x05, 0x76, 0xEE] ∧
    refusal (.dload 6 [0xAA]) (after (.dload 6 []) bench) = some .alreadyLoaded := by decide
theorem test_dload_long : response (.dload 6 [1, 2, 3, 4, 5]) bench = raised (.outOfRange 0 4 (some (0, 5))) ∧
    refusal (.dload 2 [1]) bench = some .notRom := by decide

/-! ## The Router family (D-R1 to D-R25) -/

theorem test_fetch8 : response (.fetch8 0x1000) bench = value .w8 0x3E ∧
    response (.fetch8 0x2005) bench = raised (.outOfRange 5 4 none) := by decide
theorem test_fetch16 : response (.fetch16 0x1000) bench = value .w16 0x053E ∧
    response (.fetch16 0x0FFF) State.reset = raised (.unmapped 0x0FFF [(0, 0x1000), (0x1000, 0x100)]) := by decide
theorem test_fetch32 : response (.fetch32 0x0FFD) State.reset =
    raised (.unmapped 0x0FFD [(0, 0x1000), (0x1000, 0x100)]) ∧
    response (.fetch32 0x1000) bench = value .w32 0x0076053E := by decide
theorem test_fetch64 : response (.fetch64 0x10F8) bench = value .w64 0 ∧
    response (.fetch64 0x10F9) State.reset = raised (.unmapped 0x10F9 [(0, 0x1000), (0x1000, 0x100)]) := by decide
theorem test_store8 : bytesAfter (.store8 0x0010 0xAB) bench 0 0xF 3 = [0, 0xAB, 0] ∧
    response (.store8 0x1000 0) bench = raised (.writeProtected 0 .w8) := by decide
theorem test_store16 : bytesAfter (.store16 0x0FFE 0x1234) bench 0 0xFFE 2 = [0x34, 0x12] ∧
    bytesAfter (.store16 0x0FFF 0x1234) bench 0 0xFFF 1 = [0] := by decide
theorem test_store32 : bytesAfter (.store32 0x0100 0xAABBCCDD) bench 0 0x100 4 = [0xDD, 0xCC, 0xBB, 0xAA] := by decide
theorem test_store64 : bytesAfter (.store64 0x0008 0x1122334455667788) bench 0 8 8 =
    [0x88, 0x77, 0x66, 0x55, 0x44, 0x33, 0x22, 0x11] := by decide
theorem test_in8 : response (.in8 0x12) bench = value .w8 0x33 ∧
    response (.in8 0x12) State.reset = raised (.unmapped 0x12 []) := by decide
theorem test_in16 : response (.in16 0x12) bench = value .w16 0x4433 ∧
    response (.in16 0x13) bench = raised (.unmapped 0x13 [(0x10, 4), (0x20, 8)]) := by decide
theorem test_in32 : response (.in32 0x10) bench = value .w32 0x44332211 := by decide
theorem test_in64 : response (.in64 0x10) bench = raised (.unmapped 0x10 [(0x10, 4), (0x20, 8)]) ∧
    response (.in64 0x20) bench = value .w64 0 := by decide
theorem test_out8 : bytesAfter (.out8 0x11 0xAA) bench 5 0 4 = [0x11, 0xAA, 0x33, 0x44] := by decide
theorem test_out16 : bytesAfter (.out16 0x12 0xBEEF) bench 5 0 4 = [0x11, 0x22, 0xEF, 0xBE] := by decide
theorem test_out32 : bytesAfter (.out32 0x10 0x01020304) bench 5 0 4 = [4, 3, 2, 1] := by decide
theorem test_out64 : bytesAfter (.out64 0x20 0x0102030405060708) bench 8 0 8 = [1, 2, 3, 4, 5, 6, 7, 8] ∧
    response (.out64 0x10 0) bench = raised (.unmapped 0x10 [(0x10, 4), (0x20, 8)]) := by decide
theorem test_regm : (after (.regm 2 0x1100 0x10) bench).memEntries = bench.memEntries ++ [⟨2, 0x1100, 0x10⟩] ∧
    response (.regm 2 0x0FF0 0x20) bench = raised (.overlappingRegistration (0x0FF0, 0x20) (0, 0x1000)) := by decide
theorem test_regm_refused : refusal (.regm 2 0xFFF0 0x20) bench = some .malformedRange ∧
    refusal (.regm 0 0x4000 0x10) bench = some .deviceRegistered ∧
    refusal (.regm 2 0x4000 0x10) { bench with lifecycle := .stopped } = some .notIdle := by decide
theorem test_regio : (after (.regio 2 0 0x10) bench).ioEntries = bench.ioEntries ++ [⟨2, 0, 0x10⟩] ∧
    response (.regio 2 0x13 1) bench = raised (.overlappingRegistration (0x13, 1) (0x10, 4)) := by decide

/-! ## The register family (D-G1 to D-G5) -/

theorem test_rdreg : response (.rdreg .wh) pair = value .w8 0x12 ∧ response (.rdreg .wl) pair = value .w8 0x34 ∧
    response (.rdreg .w) pair = value .w16 0x1234 := by decide
theorem test_rdreg_unknown : refusal (.rdreg .a) pair = some .noSuchRegister := by decide
theorem test_wrreg : response (.rdreg .w) (after (.wrreg .wl 0x1FF) pair) = value .w16 0x12FF ∧
    response (.rdreg .w) (after (.wrreg .wh 0xAB) pair) = value .w16 0xAB34 := by decide
theorem test_getregs : response .getregs State.reset =
    some { cond := none, value := .registers [(.a, 0), (.pc, 0x1000)] } := by decide
theorem test_printregs : refusal (.printregs 1) (runningAt 0x1000) = some .workerOwnsBlock := by decide

/-! ## The Processor family (D-P1 to D-P18) -/

theorem test_setup : (after (.setup .mem .io) { State.reset with setupDone := false }).setupDone = true := by decide
theorem test_reset : (after .reset { halted with lifecycle := .stopped }).pstate = .reset ∧
    (after .reset { halted with lifecycle := .stopped }).regs = State.reset.regs := by decide
theorem test_fetchi : (after .fetchi (runningAt 0x1000)).ibuf = [0x3E, 0x05] ∧
    (after .fetchi (runningAt 0x1000)).regs.pc = 0x1002 ∧ (after .fetchi (runningAt 0x1000)).pstate = .decoding := by
  decide
/-- D-P11: a fetch at an unmapped address. -/
theorem test_fetchi_unmapped : (after .fetchi (runningAt 0x1100)).fault =
    some (.unmapped 0x1100 [(0, 0x1000), (0x1000, 0x100)]) ∧ (after .fetchi (runningAt 0x1100)).regs.pc = 0x1100 ∧
    (after .fetchi (runningAt 0x1100)).ibuf = [] := by decide
theorem test_decodei : (after .decodei (after .fetchi (runningAt 0x1000))).decoded = some (.ldiA 0x05) ∧
    (after .decodei (after .fetchi (runningAt 0x1000))).pstate = .executing := by decide
theorem test_execi : (after .execi (executing (.ldiA 5))).regs.read .a = some 5 ∧
    (after .execi (executing (.ldiA 5))).pstate = .fetching ∧ (after .execi (executing (.ldiA 5))).instrIndex = 1 := by
  decide
/-- D-P13: the instruction's halt is kept, whatever the callback answers. -/
theorem test_execi_callback :
    (after .execi { executing .hlt with dbg := some 0, dbgAnswers := [.stops] }).haltCause = .haltInstruction ∧
    (after .execi { executing (.ldiA 5) with dbg := some 0, dbgAnswers := [.stops] }).haltCause = .debugRequested := by
  decide
theorem test_setupdebug : (after (.setupdebug 7) State.reset).dbg = some 7 := by decide
theorem test_stopdebug : (after .stopdebug { State.reset with dbg := some 7 }).dbg = none := by decide
theorem test_asm : ill2Asm "ldi A, 0x5".toList = .bytes [0x3E, 0x05] ∧
    ill2Asm "LDI A,0x100".toList = .invalidOperand "8-bit immediate".toList "0x100".toList ∧
    ill2Asm "NOP 1,2,3".toList = .unknownOpcode "NOP".toList := by decide
theorem test_disasm : ill2Disasm [0x3E, 0xFF] = .text "LDI A,0xFF".toList ∧
    ill2Disasm [0x00] = .unknownInstruction 0x00 ∧ ill2Disasm [0x3E] = .notOneInstruction := by decide
theorem test_ldi_a : (after (.ldiA 0xFF) (executing (.ldiA 0xFF))).regs.view = [(.a, 0xFF), (.pc, 0x1002)] := by decide
theorem test_hlt : (after .hlt (executing .hlt)).pstate = .halted ∧
    (after .hlt (executing .hlt)).haltCause = .haltInstruction ∧ (after .hlt (executing .hlt)).instrIndex = 1 := by
  decide

/-! ## The Engine family (D-E1 to D-E11) -/

theorem test_build : exec (.build Config.cfgIll) unbuilt = .next State.reset := by rfl
/-- D-E2: an overlap fails the build. -/
theorem test_build_overlap :
    response (.build (buildOf [element .ram 0 0x1000, element .ram 0x800 0x10])) unbuilt =
      raised (.overlappingRegistration (0x800, 0x10) (0, 0x1000)) ∧
    (after (.build (buildOf [element .ram 0 0x1000, element .ram 0x800 0x10])) unbuilt).buildFailed = true := by decide
theorem test_start : (after .start { State.reset with dying := true }).lifecycle = .running ∧
    (after .start { State.reset with dying := true }).dying = false ∧
    (after .start { State.reset with buildFailed := true }).lifecycle = .idle := by decide
theorem test_stop : (after .stop (runningAt 0x1000)).lifecycle = .stopping ∧
    (after .stop (runningAt 0x1000)).dying = true ∧ after .stop State.reset = State.reset := by decide
theorem test_hooks : after .initthread (runningAt 0x1000) = runningAt 0x1000 ∧
    after .exitthread (runningAt 0x1000) = runningAt 0x1000 ∧
    after .flushthread (runningAt 0x1000) = runningAt 0x1000 := by decide
/-- D-E10: the tick of an iteration; P1's first iteration. -/
theorem test_workerstep :
    (after .workerstep { runningAt 0x1000 with periph := [⟨.increment, 0⟩] }).periph = [⟨.increment, 1⟩] ∧
    (after .workerstep (runningAt 0x1000)).regs.view = [(.a, 5), (.pc, 0x1002)] := by decide
/-- R258: a stop that lands after a singly scheduled `FETCHI`: the instruction completes. -/
theorem test_workerstep_in_flight :
    (after .workerstep { fetched with lifecycle := .stopping, dying := true }).regs.view = [(.a, 5), (.pc, 0x1002)] ∧
    (after .workerstep { fetched with lifecycle := .stopping, dying := true }).lifecycle = .stopping := by decide
/-- R253, R260: the ticks follow a singly scheduled `EXECI`; a `FETCHI` past a stop request is the exit. -/
theorem test_worker_parts :
    (match step (scheduled .worker (command 0xC4 .none) { fetched with periph := [⟨.increment, 0⟩] }) with
    | .next t => t.periph
    | .fault _ => []
    | .refused _ => []) = [⟨.increment, 1⟩] ∧
    (match step (scheduled .worker (command 0xC2 .none) (after .stop (runningAt 0x1000))) with
    | .next t => t.lifecycle
    | .fault _ => .idle
    | .refused _ => .idle) = .stopped := by decide
/-- R335: a tick that does not return. -/
theorem test_tick_never_returns :
    exec .workerstep { fetched with periph := [⟨.neverReturns, 0⟩] } = .fault .tickNeverReturns := by rfl
theorem test_fractional_frequency : clockInterval (mkRat 1 2) = 2 := by decide
/-- D-E11: the faulting iteration skips its tick (the byte at 0x0000 is `00`). -/
theorem test_workerstep_fault :
    (after .workerstep { runningAt 0 with periph := [⟨.increment, 0⟩] }).periph = [⟨.increment, 0⟩] ∧
    (after .workerstep (runningAt 0)).fault = some (.unknownInstruction 0) ∧
    (after .workerstep (runningAt 0)).stopReport = some (.faultHalt (.unknownInstruction 0)) := by decide
/-- D-X7: an `Exec` that stores to the ROM. -/
theorem test_exec_raises :
    (match runTree (.write .mem 0x1000 .w8 0 (.ends .cont)) (executing .hlt) with
    | .ends _ _ => none
    | .raised s c => some (s == executing .hlt, c)
    | .refused _ => none
    | .neverEnds => none) = some (true, .writeProtected 0 .w8) := by decide

/-! ## Witnesses: a concrete state and operands that meet the hypotheses of each statement -/

/-- The command `START`. -/
def startCommand : Command := command 0xD1 .none

/-- The command `DECODEI`, a step of the worker. -/
def decodeiCommand : Command := command 0xC3 .none

/-- The entry of the ROM of `CFG_ILL`. -/
def romEntry : RouterEntry := { dev := 1, base := 0x1000, size := 0x100 }

/-- The entry of the RAM of `CFG_ILL`. -/
def ramEntry : RouterEntry := { dev := 0, base := 0, size := 0x1000 }

/-- The bytes at the program counter, checked one by one. -/
def readsAtPc (s : State) (bytes : List Byte) : Bool :=
  (List.range bytes.length).all fun k =>
    match routerRead s .mem (s.fetchAddress k) .w8 with
    | .ok v => v == (bytes.getD k 0).setWidth 64
    | .raise _ => false
    | .refuse _ => false

/-- The check of the bytes at the program counter is what the statements ask. -/
theorem holdsAtPc_of_reads {s : State} {bytes : List Byte} (h : readsAtPc s bytes = true) : s.holdsAtPc bytes := by
  intro k b hk
  have hlt : k < bytes.length := by
    by_contra hc
    rw [List.getElem?_eq_none (by omega)] at hk
    cases hk
  have h1 := List.all_eq_true.1 h k (List.mem_range.2 hlt)
  rw [List.getD_eq_getElem?_getD, hk] at h1
  cases hr : routerRead s .mem (s.fetchAddress k) .w8 with
  | ok v => rw [hr] at h1; simpa using h1
  | raise c => rw [hr] at h1; cases h1
  | refuse r => rw [hr] at h1; cases h1

theorem witness_AcceptedEncodingsAreTheirOwn :
    decodeCommand startCommand = .ok .start ∧ decodeStream [0x3E, 0xFF] = .ok (.ldiA 0xFF) := by decide

theorem witness_ReservedCodesAreRefused :
    (scheduled .controller (command 0x08 .none) State.reset).port = [⟨.controller, command 0x08 .none⟩] ∧
    State.reset.blocked = false ∧ (command 0x08 .none).op ∉ listedCodes ∧ (command 0xD7 .none).op ∉ listedCodes := by
  decide

theorem witness_LenStepOfIll2 : (0x00 : Byte) ≠ 0x3E ∧ (0x00 : Byte) ≠ 0x76 ∧ (0x3F : Byte) ≠ 0x3E := by decide

theorem witness_StepRunsTheScheduledInstruction :
    (decodeCommand startCommand = .ok .start ∧ workerOnly .start = false ∧ State.reset.built = true ∧
      State.reset.blocked = false) ∧
    (decodeCommand (command 0xD0 (.config Config.cfgIll)) = .ok (.build Config.cfgIll) ∧ unbuilt.blocked = false) ∧
    (decodeCommand decodeiCommand = .ok .decodei ∧ workerOnly .decodei = true ∧ (runningAt 0x1000).active = true) ∧
    (decodeCommand (command 0xC2 .none) = .ok .fetchi ∧ stopsAtBoundary (after .stop (runningAt 0x1000)) = true ∧
      (after .stop (runningAt 0x1000)).active = true ∧ stopsAtBoundary (runningAt 0x1000) = false ∧
      stopsAtBoundary { halted with dying := true } = false) ∧
    (decodeCommand (command 0xC4 .none) = .ok .execi ∧ fetched.inFlight = true ∧ fetched.active = true ∧
      (runningAt 0x1000).inFlight = false) ∧
    (scheduled .controller startCommand { runningAt 0x1000 with blocked := true }).blocked = true ∧
    ((runningAt 0x1000).port = [] ∧ (runningAt 0x1000).active = true) ∧
    (State.reset.port = [] ∧ State.reset.active = false) := by decide

theorem witness_StepRunsTheFetchedInstruction :
    (decodeStream [0x3E, 0x05] = .ok (.ldiA 0x05) ∧ (runningAt 0x1000).port = [] ∧
      (runningAt 0x1000).active = true ∧ (runningAt 0x1000).dying = false ∧ (runningAt 0x1000).canFetch ∧
      (runningAt 0x1000).target = .ill2 ∧ (runningAt 0x1000).registersFit ∧
      (runningAt 0x1000).holdsAtPc [0x3E, 0x05]) ∧
    decodeStream [0x76] = .ok .hlt ∧ (runningAt 0x1002).canFetch ∧ (runningAt 0x1002).registersFit ∧
      (runningAt 0x1002).holdsAtPc [0x76] :=
  ⟨⟨by decide, rfl, rfl, rfl, ⟨rfl, Or.inl rfl, rfl⟩, rfl, by decide, holdsAtPc_of_reads (by decide)⟩, by decide,
    ⟨rfl, Or.inl rfl, rfl⟩, by decide, holdsAtPc_of_reads (by decide)⟩

theorem witness_AgentsIssueTheirOwnOperations :
    (decodeCommand decodeiCommand = .ok .decodei ∧ workerOnly .decodei = true ∧
      (scheduled .controller decodeiCommand State.reset).blocked = false ∧
      (scheduled .worker decodeiCommand State.reset).active = false) ∧
    decodeCommand startCommand = .ok .start ∧ workerOnly .start = false ∧ unbuilt.built = false ∧
      (scheduled .controller startCommand unbuilt).blocked = false := by decide

theorem witness_WorkerOwnsTheBlock :
    (decodeCommand (command 0x82 .none) = .ok .getregs ∧ workerOnly .getregs = false ∧
      (runningAt 0x1000).active = true ∧ (runningAt 0x1000).built = true) ∧
    ({ State.reset with lifecycle := .stopping } : State).active = true ∧
    ({ State.reset with lifecycle := .stopped } : State).lifecycle ≠ .idle := by decide

/-- The last 64 bits of the ROM's entry; the last byte of the RAM's; the last port of `IOP4`. -/
theorem witness_RouterReadReturnsTheBytes :
    (bench.quiet = true ∧ 0x10F8 < 2 ^ bench.addressWidth .mem ∧ lookup (bench.entries .mem) 0x10F8 = some romEntry ∧
      0x10F8 + Width.w64.bytes ≤ romEntry.base + romEntry.size ∧ bench.devices[romEntry.dev]?.isSome = true) ∧
    (lookup (bench.entries .mem) 0x0FFF = some ramEntry ∧ 0x0FFF + Width.w8.bytes ≤ ramEntry.base + ramEntry.size) ∧
    lookup (bench.entries .io) 0x13 = some { dev := 5, base := 0x10, size := 4 } ∧
      bench.devices[5]?.map Device.size = some 4 := by decide

theorem witness_RouterWriteStoresTheBytes :
    (bench.quiet = true ∧ lookup (bench.entries .mem) 0x0FFE = some ramEntry ∧
      0x0FFE + Width.w16.bytes ≤ ramEntry.base + ramEntry.size ∧
      bench.devices[0]?.map Device.policy = some .readWrite ∧ bench.devices[0]?.map Device.size = some 0x1000) ∧
    (∀ d ∈ bench.devices, d.storage.wf) ∧ lookup (bench.entries .io) 0x20 = some { dev := 8, base := 0x20, size := 8 } ∧
      bench.devices[8]?.map Device.policy = some .readWrite := by decide

theorem witness_UnownedAddressIsUnmapped :
    State.reset.quiet = true ∧ 0x1100 < 2 ^ State.reset.addressWidth .mem ∧
    (∀ e ∈ State.reset.entries .mem, ¬(e.base ≤ 0x1100 ∧ 0x1100 < e.base + e.size)) ∧
    ∀ e ∈ State.reset.entries .io, ¬(e.base ≤ 0xFFFF ∧ 0xFFFF < e.base + e.size) := by decide

/-- An unowned address, a span off the end of the ROM, the ROM, and the over-long entry of D-R23. -/
theorem witness_RouterChecksInPriorityOrder :
    (bench.quiet = true ∧ lookup (bench.entries .mem) 0x1100 = none) ∧
    (lookup (bench.entries .mem) 0x10FF = some romEntry ∧
      romEntry.base + romEntry.size < 0x10FF + Width.w16.bytes) ∧
    (lookup (bench.entries .mem) 0x1000 = some romEntry ∧ bench.devices[1]?.map Device.policy = some .readOnly) ∧
    lookup (bench.entries .mem) 0x2003 = some { dev := 7, base := 0x2000, size := 8 } ∧
      bench.devices[7]?.map Device.size = some 4 ∧ bench.devices[7]?.map Device.policy = some .readWrite ∧
      4 < 0x2003 - 0x2000 + Width.w16.bytes := by decide

theorem witness_LookupFindsTheOneOwner :
    [ramEntry, romEntry].Pairwise RouterEntry.disjoint ∧ [romEntry, ramEntry].Perm [ramEntry, romEntry] := by decide

theorem witness_OtherDevicesUntouched :
    State.reset.routersSound ∧ ramEntry ∈ State.reset.entries .mem ∧
    romEntry ∈ State.reset.memEntries ++ State.reset.ioEntries ∧ romEntry ≠ ramEntry ∧
    (response (.routerWrite .mem .w8 0x0FFF 0xAA) State.reset = done) ∧
    response (.routerRead .mem .w8 0x0FFF) State.reset = value .w8 0 := by decide

/-- A range that touches the ROM's end and the space's; the refusals; the first of two overlaps (D-R17, D-R19, D-R21). -/
theorem witness_RegistrationAppendsOrRejects :
    ({ bench with lifecycle := .stopped } : State).lifecycle ≠ .idle ∧ 2 ^ bench.addressWidth .mem < 0xFFF0 + 0x11 ∧
    (∃ e ∈ bench.memEntries ++ bench.ioEntries, e.dev = 0) ∧
    (bench.lifecycle = .idle ∧ 0x1100 + 0xF00 ≤ 2 ^ bench.addressWidth .mem ∧
      0xFFF0 + 0x10 ≤ 2 ^ bench.addressWidth .mem ∧
      (∀ e ∈ bench.memEntries ++ bench.ioEntries, e.dev ≠ 2) ∧ bench.devices[2]?.isSome = true ∧
      (∀ e ∈ bench.entries .mem, ¬(0x1100 < e.base + e.size ∧ e.base < 0x1100 + 0xF00)) ∧
      ∀ e ∈ bench.entries .mem, ¬(0xFFF0 < e.base + e.size ∧ e.base < 0xFFF0 + 0x10)) ∧
    bench.entries .mem = [] ++ ramEntry :: [romEntry, { dev := 7, base := 0x2000, size := 8 }] ∧
    (0x0FF0 < ramEntry.base + ramEntry.size ∧ ramEntry.base < 0x0FF0 + 0x20) := by decide

theorem witness_TablesConstantAfterStart :
    (runningAt 0x1000).built = true ∧ (runningAt 0x1000).lifecycle ≠ .idle ∧
    step (runningAt 0x1000) = .next (after .workerstep (runningAt 0x1000)) :=
  ⟨rfl, by decide, rfl⟩

theorem witness_DeviceReadReturnsTheBytes :
    bench.quiet = true ∧ bench.devices[2]?.map Device.size = some 8 ∧ 8 < 1 + Width.w64.bytes ∧
    0 + Width.w64.bytes ≤ 8 ∧ 8 < 8 + Width.w8.bytes ∧ 7 + Width.w8.bytes ≤ 8 := by decide

theorem witness_DeviceWriteStoresTheBytes :
    bench.quiet = true ∧ bench.devices[4]?.map Device.policy = some .readOnly ∧
    bench.devices[2]?.map Device.policy = some .readWrite ∧ bench.devices[2]?.map Device.size = some 8 ∧
    8 < 7 + Width.w16.bytes ∧ 6 + Width.w16.bytes ≤ 8 ∧ ∀ d ∈ bench.devices, d.storage.wf := by decide

theorem witness_DeviceRoundTrip :
    bench.quiet = true ∧ bench.devices[3]?.map Device.policy = some .readWrite ∧
    bench.devices[3]?.map Device.size = some 8 ∧ 0 + Width.w64.bytes ≤ 8 ∧
    bench.devices[3]?.map (fun d => decide d.storage.wf) = some true := by decide

theorem witness_DloadLoadsARomOnce :
    (bench.devices[2]?.map Device.kind = some .ram ∧ bench.devices[4]?.map Device.loaded = some true ∧
      (runningAt 0x1000).lifecycle ≠ .idle) ∧
    bench.lifecycle = .idle ∧ bench.devices[6]?.map Device.kind = some .rom ∧
      bench.devices[6]?.map Device.loaded = some false ∧ bench.devices[6]?.map Device.size = some 4 ∧
      4 < [(1 : Byte), 2, 3, 4, 5].length ∧ [(1 : Byte), 2, 3, 4].length ≤ 4 := by decide

theorem witness_ReadsChangeTheResponseOnly :
    response (.routerRead .mem .w16 0x1000) bench = value .w16 0x053E ∧
    response (.deviceRead .io .w8 5 3) bench = value .w8 0x44 ∧ response (.rdreg .pc) bench = value .w16 0x1000 ∧
    response (.disasm [0x76]) bench = some { cond := none, value := .text ['H', 'L', 'T'] } := by decide

theorem witness_ConditionsChangeTheResponseOnly :
    response (.routerRead .io .w8 0) bench = raised (.unmapped 0 [(0x10, 4), (0x20, 8)]) ∧
    response (.routerWrite .mem .w8 0x1000 0) bench = raised (.writeProtected 0 .w8) ∧
    response (.deviceRead .mem .w8 2 8) bench = raised (.outOfRange 8 8 none) ∧
    response (registration .mem 2 0x1000 0x100) bench =
      raised (.overlappingRegistration (0x1000, 0x100) (0x1000, 0x100)) ∧
    response (.disasm [0xFF]) bench = raised (.unknownInstruction 0xFF) := by decide

theorem witness_RdregReadsWholeAndHalf :
    pair.quiet = true ∧ (pair.regs.cell? .w).isSome = true ∧
    (pair.regs.cell? .wh = none ∧ pair.regs.half? .wh = some ⟨.wh, .w, .hi⟩ ∧
      pair.regs.half? .wl = some ⟨.wl, .w, .lo⟩ ∧ (pair.regs.cell? .w).map RegCell.width = some .w16 ∧
      (pair.regs.cell? .w).map (fun c => c.val.toNat) = some 0x1234) ∧
    pair.regs.cell? .a = none ∧ pair.regs.half? .a = none := by decide

theorem witness_WrregWritesWholeAndHalf :
    pair.quiet = true ∧ (pair.regs.cell? .pc).isSome = true ∧
    (pair.regs.cell? .wl = none ∧ pair.regs.half? .wl = some ⟨.wl, .w, .lo⟩ ∧
      pair.regs.half? .wh = some ⟨.wh, .w, .hi⟩ ∧ (pair.regs.cell? .w).map RegCell.width = some .w16) ∧
    pair.regs.cell? (.other 0) = none ∧ pair.regs.half? (.other 0) = none := by decide

theorem witness_HalvesComposeToTheWhole :
    pair.quiet = true ∧ pair.regs.cell? .w = some ⟨.w, .w16, 0, 0x1234⟩ ∧ (Width.w16 ≠ .w8) ∧
    (0x1234 : Word).toNat < 2 ^ Width.w16.bits ∧ pair.regs.cell? .wh = none ∧
    pair.regs.half? .wh = some ⟨.wh, .w, .hi⟩ ∧ pair.regs.cell? .wl = none ∧
    pair.regs.half? .wl = some ⟨.wl, .w, .lo⟩ := by decide

theorem witness_GetregsAndPrintregsView :
    State.reset.quiet = true ∧ ({ State.reset with lifecycle := .stopped } : State).quiet = true := by decide

theorem witness_SetupAndDebugCommands : State.reset.quiet = true ∧ (runningAt 0x1000).quiet = false := by decide

theorem witness_ResetRestoresTheProcessor :
    ({ halted with lifecycle := .stopped } : State).quiet = true ∧
    ({ halted with lifecycle := .stopping } : State).quiet = false := by decide

theorem witness_FetchiReadsOneInstruction :
    (runningAt 0x1000).canFetch ∧ (runningAt 0x1000).registersFit ∧
    [(0x3E : Byte), 0x05].length ≤ targetMaxLen (runningAt 0x1000).target ∧
    (runningAt 0x1000).holdsAtPc [0x3E, 0x05] ∧
    (∀ k, 0 < k → k < [(0x3E : Byte), 0x05].length →
      targetLenStep (runningAt 0x1000).target ([(0x3E : Byte), 0x05].take k) = .more) ∧
    targetLenStep (runningAt 0x1000).target [0x3E, 0x05] = .done ∧
    targetLenStep (runningAt 0x1002).target [0x76] = .done ∧ (runningAt 0x1002).holdsAtPc [0x76] := by
  refine ⟨⟨rfl, Or.inl rfl, rfl⟩, by decide, by decide, holdsAtPc_of_reads (by decide), ?_, rfl, rfl,
    holdsAtPc_of_reads (by decide)⟩
  intro k h1 h2
  have h3 : k = 1 := by simp at h2; omega
  subst h3
  rfl

/-- The byte `00` at 0; the first byte unmapped at `0x1100`; `3E` as the last mapped byte (P5). -/
theorem witness_FetchiRaisesWhereItStands :
    ((runningAt 0).canFetch ∧ (runningAt 0).registersFit ∧ (runningAt 0).holdsAtPc [0] ∧
      targetLenStep (runningAt 0).target [0] = .unknown 0 ∧ [(0 : Byte)].getLast? = some 0) ∧
    ((runningAt 0x1100).canFetch ∧ (runningAt 0x1100).holdsAtPc [] ∧ 0 < targetMaxLen (runningAt 0x1100).target ∧
      response .fetchi (runningAt 0x1100) = done ∧
      lookup ((runningAt 0x1100).entries .mem) ((runningAt 0x1100).fetchAddress 0) = none) ∧
    ((after (.dstore8 0 0xFFF 0x3E)
        { State.reset with memEntries := [ramEntry], regs := State.reset.regs.setPc 0xFFF }).holdsAtPc [0x3E] ∧
      targetLenStep .ill2 [0x3E] = .more ∧ lookup [ramEntry] 0x1000 = none) ∧
    ({ State.reset with setupDone := false } : State).setupDone = false ∧
    (after .fetchi (runningAt 0x1000)).pstate = .decoding ∧ (executing .hlt).pstate = .executing :=
  ⟨⟨⟨rfl, Or.inl rfl, rfl⟩, by decide, holdsAtPc_of_reads (by decide), rfl, rfl⟩,
    ⟨⟨rfl, Or.inl rfl, rfl⟩, holdsAtPc_of_reads (by decide), by decide, by decide, by decide⟩,
    ⟨holdsAtPc_of_reads (by decide), rfl, by decide⟩, rfl, by decide, rfl⟩

theorem witness_DecodeiDecodes :
    halted.pstate = .halted ∧ (after .fetchi (runningAt 0x1000)).pstate = .decoding ∧
    targetDecode (after .fetchi (runningAt 0x1000)).target (after .fetchi (runningAt 0x1000)).ibuf =
      some (.ldiA 0x05) ∧
    State.reset.pstate ≠ .halted ∧ State.reset.pstate ≠ .decoding := by decide

/-- The end of an `Exec`, in a form that evaluates. -/
def endOf (r : TreeRun) : Option (State × ExecOutcome) :=
  match r with
  | .ends s o => some (s, o)
  | .raised _ _ => none
  | .refused _ => none
  | .neverEnds => none

/-- The clause on a tree that raises is met by `test_exec_raises`. -/
theorem witness_ExeciCompletesOrRaises :
    ((executing (.ldiA 5)).pstate = .executing ∧ (executing (.ldiA 5)).decoded = some (.ldiA 5) ∧
      (executing (.ldiA 5)).dbg = none ∧
      (endOf (runTree (targetExec (.ldiA 5)) (executing (.ldiA 5)))).map Prod.snd = some .cont ∧
      endOf (runTree (targetExec .hlt) (executing .hlt)) = some (executing .hlt, .halt)) ∧
    (let s : State := { executing .hlt with dbg := some 0, dbgAnswers := [.stops] }
     s.dbg = some 0 ∧ s.dbgAnswers = .stops :: [] ∧ endOf (runTree (targetExec .hlt) s) = some (s, .halt)) ∧
    (let s : State := { executing .hlt with dbg := some 0, dbgAnswers := [.continues] }
     s.dbgAnswers = .continues :: [] ∧ endOf (runTree (targetExec .hlt) s) = some (s, .halt)) ∧
    (let s : State := { executing .hlt with dbg := some 0 }
     s.dbgAnswers = [] ∧ endOf (runTree (targetExec .hlt) s) = some (s, .halt)) ∧
    ((after .fetchi (runningAt 0x1000)).pstate = .decoding ∧
      targetDecode (after .fetchi (runningAt 0x1000)).target (after .fetchi (runningAt 0x1000)).ibuf =
        some (.ldiA 0x05)) ∧
    (runningAt 0x1000).pstate = .reset ∧ ({ runningAt 0x1000 with pstate := .fetching } : State).pstate = .fetching := by
  decide

/-- A tick that does not return, and an `Exec` that does not terminate. -/
theorem witness_ForbiddenCallbackEndsTheRun_tick_exec :
    (let s : State := { fetched with periph := [⟨.neverReturns, 0⟩] }
     s.active = true ∧ s.inFlight = true ∧ s.haltCause = .none ∧ exec .execi s = .next (after .execi s) ∧
       (after .execi s).haltCause ≠ .fault ∧ ∃ p ∈ s.periph, p.tick = .neverReturns) ∧
    (executing .hlt).pstate = .executing ∧ runTree .neverEnds (executing .hlt) = .neverEnds :=
  ⟨⟨rfl, rfl, rfl, rfl, by decide, _, List.mem_singleton.2 rfl, rfl⟩, rfl, rfl⟩

theorem witness_ForbiddenCallbackEndsTheRun :
    ∀ a ∈ [CallbackAnswer.issuesStop, .neverReturns, .issuesStart],
      let s : State := { executing .hlt with dbg := some 0, dbgAnswers := [a] }
      s.pstate = .executing ∧ s.decoded = some .hlt ∧ endOf (runTree (targetExec .hlt) s) = some (s, .halt) ∧
      s.dbg = some 0 ∧ s.dbgAnswers = a :: [] := by decide

theorem witness_LoadImmediateAndHalt :
    (executing .hlt).pstate = .executing ∧ (executing .hlt).regs.cell? .a = some ⟨.a, .w8, 0, 0⟩ ∧
    (executing .hlt).dbg = none ∧ (executing (.ldiA 0xFF)).decoded = some (.ldiA 0xFF) ∧
    (executing .hlt).decoded = some .hlt ∧
    ({ executing .hlt with dbg := some 0, dbgAnswers := [.stops] } : State).dbgAnswers = .stops :: [] := by decide

/-- D-P6: a halted Processor's scheduled `FETCHI` and `EXECI`, with a stop request and without. -/
theorem test_halted_steps :
    step { halted with port := [⟨.worker, command 0xC2 .none⟩, ⟨.worker, command 0xC4 .none⟩] } =
      .next (scheduled .worker (command 0xC4 .none) halted) ∧
    step (scheduled .worker (command 0xC4 .none) halted) = .next halted ∧
    step (scheduled .worker (command 0xC2 .none) { halted with lifecycle := .stopping, dying := true }) =
      .next { halted with lifecycle := .stopping, dying := true } := ⟨rfl, rfl, rfl⟩

theorem witness_HaltedProcessorExecutesNothing :
    halted.pstate = .halted ∧ halted.setupDone = true ∧ decodeCommand (command 0xC2 .none) = .ok .fetchi ∧
    decodeCommand decodeiCommand = .ok .decodei ∧ decodeCommand (command 0xC4 .none) = .ok .execi ∧
    (let s : State := scheduled .worker (command 0xC2 .none) halted
     s.pstate = .halted ∧ s.setupDone = true ∧ s.port = ⟨.worker, command 0xC2 .none⟩ :: [] ∧ s.active = true) := by
  decide

theorem witness_OnlyResetLeavesHalted :
    (halted.built = true ∧ halted.pstate = .halted ∧ step halted = .next (workerExit halted)) ∧
    (let s : State := scheduled .controller (command 0xC1 .none) { halted with lifecycle := .stopped }
     s.pstate = .halted ∧ step s = .next (after .reset { s with port := [] })) :=
  ⟨⟨rfl, rfl, rfl⟩, rfl, rfl⟩

theorem witness_DisasmThenAsmGivesTheBytes :
    State.reset.target = .ill2 ∧ decodeStream [0x3E, 0x00] = .ok (.ldiA 0) ∧ decodeStream [0x76] = .ok .hlt := by decide

theorem witness_AsmAndDisasmExamples : State.reset.target = .ill2 ∧ (runningAt 0x1000).target = .ill2 := by decide

theorem witness_BuildConstructsTheBlock :
    (State.reset.built = true ∧ ({ Config.cfgIll with freqHz := 0 } : BuildArg).freqHz ≤ 0 ∧
      ((element .ram 0xFFFF 2).size = 0 ∨
        2 ^ (element .ram 0xFFFF 2).kind.space.width 16 16 <
          (element .ram 0xFFFF 2).base + (element .ram 0xFFFF 2).size) ∧ (element .ioPort 0 0).size = 0) ∧
    unbuilt.built = false ∧ Config.cfgIll.wf = true ∧ Config.cfgIll.config.Pairwise compatibleElements ∧
    ∀ c ∈ Config.cfgIll.config, contentsFit c :=
  ⟨⟨rfl, by decide, by decide, rfl⟩, rfl, by decide, by decide, by decide⟩

/-- The element of D-E3: three bytes for a ROM of two. -/
def longRom : ConfigEntry := { element .rom 0x1000 2 with initialContents := some [0x3E, 0x05, 0x76] }

/-- D-E2 and D-E3 as layouts that fail at an element: the ROM after a RAM that ends where it begins, and the second RAM, which
overlaps the first entry; an overlap by one byte with the second of two entries. -/
theorem witness_FailedBuildPreventsStart_layout :
    unbuilt.built = false ∧
    ((buildOf [element .ram 0 0x1000, longRom]).wf = true ∧
      (buildOf [element .ram 0 0x1000, longRom]).config = [element .ram 0 0x1000] ++ longRom :: [] ∧
      [element .ram 0 0x1000].Pairwise compatibleElements ∧ (∀ c ∈ [element .ram 0 0x1000], contentsFit c) ∧
      longRom.initialContents = some [0x3E, 0x05, 0x76] ∧ longRom.size < [(0x3E : Byte), 0x05, 0x76].length) ∧
    ((buildOf [element .ram 0 0x1000, element .ram 0x800 0x10]).wf = true ∧ contentsFit (element .ram 0x800 0x10) ∧
      layoutEntries [element .ram 0 0x1000] .mem = [] ++ ramEntry :: [] ∧
      0x800 < ramEntry.base + ramEntry.size ∧ ramEntry.base < 0x800 + 0x10) ∧
    (buildOf (Config.cfgIll.config ++ [element .ram 0x10FF 1])).wf = true ∧
      layoutEntries Config.cfgIll.config .mem = [ramEntry] ++ romEntry :: [] ∧
      (∀ e ∈ [ramEntry], ¬(0x10FF < e.base + e.size ∧ e.base < 0x10FF + 1)) ∧
      0x10FF < romEntry.base + romEntry.size ∧ romEntry.base < 0x10FF + 1 := by decide

/-- D-E2, D-E3, and the state after D-E2. -/
theorem witness_FailedBuildPreventsStart :
    (after (.build (buildOf [element .ram 0 0x1000, element .ram 0x800 0x10])) unbuilt).response.cond =
      some (.overlappingRegistration (0x800, 0x10) (0, 0x1000)) ∧
    (after (.build (buildOf [longRom])) unbuilt).response.cond = some (.outOfRange 0 2 (some (0, 3))) ∧
    (let s : State := { State.reset with buildFailed := true }
     s.built = true ∧ s.buildFailed = true ∧ s.lifecycle = .idle ∧ step s = .next s) :=
  ⟨by decide, by decide, rfl, rfl, rfl, rfl⟩

theorem witness_StartStartsTheWorker :
    ({ State.reset with buildFailed := true } : State).buildFailed = true ∧ (runningAt 0x1000).active = true ∧
    State.reset.buildFailed = false ∧ State.reset.lifecycle = .idle ∧ State.reset.port = [] ∧
    ({ halted with lifecycle := .stopped } : State).lifecycle = .stopped := by decide

theorem witness_StopRequestsAndWaits :
    (runningAt 0x1000).lifecycle = .running ∧ State.reset.lifecycle = .idle ∧
    (let s : State := scheduled .controller startCommand (after .stop (runningAt 0x1000))
     s.blocked = true ∧ s.port = [⟨.controller, startCommand⟩] ∧ s.lifecycle = .stopping ∧ s.dying = true ∧
       s.inFlight = false) := by
  decide

theorem witness_StopEndsTheRunAtTheBoundary :
    ((runningAt 0x1000).lifecycle = .running ∧ (runningAt 0x1000).haltCause = .none ∧
      (runningAt 0x1000).inFlight = false) ∧
    fetched.lifecycle = .running ∧ fetched.inFlight = true ∧
      exec .workerstep fetched = .next (after .workerstep fetched) ∧ (after .workerstep fetched).haltCause ≠ .fault :=
  ⟨by decide, rfl, rfl, rfl, by decide⟩

theorem witness_HooksAndBoundaryExit :
    (halted.active = true ∧ halted.pstate = .halted) ∧
    ((after .stop (runningAt 0x1000)).active = true ∧ (after .stop (runningAt 0x1000)).dying = true ∧
      (after .stop (runningAt 0x1000)).pstate = .reset) ∧
    State.reset.active = false := by decide

theorem witness_WorkerstepRunsIll2 :
    (runningAt 0x1000).active = true ∧ (runningAt 0x1000).dying = false ∧ (runningAt 0x1000).canFetch ∧
    (runningAt 0x1000).target = .ill2 ∧ (runningAt 0x1000).registersFit ∧
    (runningAt 0x1000).regs.cell? .a = some ⟨.a, .w8, 0, 0⟩ ∧ (runningAt 0x1000).dbg = none ∧
    (∀ p ∈ (runningAt 0x1000).periph, p.tick ≠ .neverReturns) ∧
    (runningAt 0x1000).holdsAtPc [0x3E, 0x05] ∧ (runningAt 0x1002).holdsAtPc [0x76] ∧ (runningAt 0x1002).canFetch :=
  ⟨rfl, rfl, ⟨rfl, Or.inl rfl, rfl⟩, rfl, by decide, by decide, rfl, by decide, holdsAtPc_of_reads (by decide),
    holdsAtPc_of_reads (by decide), ⟨rfl, Or.inl rfl, rfl⟩⟩

/-- Without a decoded instruction the sequencer's bookkeeping is decidable. -/
theorem sequencerSound_of_none {s : State}
    (h : (s.setupDone = true → s.memRef = some .mem ∧ s.ioRef = some .io) ∧ s.pstate ≠ .executing ∧ s.decoded = none ∧
      (s.inFlight = true → s.active = true)) : s.sequencerSound :=
  ⟨h.1, fun hp => absurd hp h.2.1, fun d hd => (by simp [h.2.2.1] at hd), h.2.2.2⟩

/-- An iteration that faults in its fetch, one that ends, and one with its instruction in flight, with a tick that
returns and with one that does not. -/
theorem witness_WorkerstepIsFetchExecuteTick :
    ((runningAt 0).haltRecorded ∧ (runningAt 0).active = true ∧ (runningAt 0).dying = false ∧
      (runningAt 0).pstate ≠ .halted ∧ exec .fetchi (runningAt 0) = .next (after .fetchi (runningAt 0)) ∧
      (after .fetchi (runningAt 0)).haltCause = .fault) ∧
    (runningAt 0x1000).haltRecorded ∧ (after .fetchi (runningAt 0x1000)).haltCause ≠ .fault ∧
      exec .execi (after .fetchi (runningAt 0x1000)) = .next (after .execi (after .fetchi (runningAt 0x1000))) ∧
    (fetched.haltRecorded ∧ fetched.active = true ∧ fetched.pstate = .decoding ∧ fetched.haltCause ≠ .fault ∧
      exec .execi fetched = .next (after .execi fetched) ∧ (after .execi fetched).haltCause ≠ .fault ∧
      (∀ p ∈ fetched.periph, p.tick ≠ .neverReturns)) ∧
    ∃ p ∈ ({ fetched with periph := [⟨.increment, 0⟩, ⟨.neverReturns, 0⟩] } : State).periph,
      p.tick = .neverReturns :=
  ⟨⟨by decide, rfl, rfl, by decide, rfl, by decide⟩, by decide, by decide, rfl,
    ⟨by decide, rfl, rfl, by decide, rfl, by decide, by decide⟩, by decide⟩

/-- R294: the fault record is the condition raised, in a fetch and with an instruction in flight. -/
theorem test_fault_record :
    after .workerstep (runningAt 0) =
      ((runningAt 0).consumed [0] .fetching).faultHalted (.unknownInstruction 0) ∧
    (after .workerstep (runningAt 0x1100)).fault =
      some (.unmapped 0x1100 [(0, 0x1000), (0x1000, 0x100)]) := by decide

theorem witness_FaultHaltSkipsTicksAndCallback :
    (runningAt 0).haltCause ≠ .fault ∧ exec .workerstep (runningAt 0) = .next (after .workerstep (runningAt 0)) ∧
    (after .workerstep (runningAt 0)).haltCause = .fault :=
  ⟨by decide, rfl, by decide⟩

theorem witness_WorkerstepFrame :
    exec .workerstep (runningAt 0x1000) = .next (after .workerstep (runningAt 0x1000)) ∧
    (runningAt 0x1000).target = .ill2 ∧ (runningAt 0x1000).sequencerSound ∧
    exec .workerstep fetched = .next (after .workerstep fetched) ∧ fetched.target = .ill2 ∧ fetched.sequencerSound :=
  ⟨rfl, rfl, sequencerSound_of_none (by decide), rfl, rfl, sequencerSound_of_none (by decide)⟩

/-- `EXECI` of `LDI A` with the flag set and clear. -/
theorem witness_InstructionsIgnoreTheDyingFlag :
    exec .execi (setDying (executing (.ldiA 5))) = .next (setDying (after .execi (executing (.ldiA 5)))) ∧
    (executing (.ldiA 5)).dying = false := ⟨rfl, rfl⟩

theorem witness_StopReportByHaltCause :
    ({ halted with lifecycle := .stopped } : State).lifecycle = .stopped ∧
    (after .workerstep (runningAt 0)).lifecycle = .stopped ∧ (after .workerstep (runningAt 0)).haltCause = .fault ∧
    (after .workerstep (runningAt 0)).fault = some (.unknownInstruction 0) := by decide

/-- A sound state and a step from it, for the statements about every step; and a sound state with a decoded
instruction. -/
theorem witness_StepKeepsInvariants :
    (runningAt 0x1000).Inv ∧ step (runningAt 0x1000) = .next (after .workerstep (runningAt 0x1000)) ∧
    (runningAt 0x1000).built = true ∧
    (executing (.ldiA 5)).haltRecorded ∧ (executing (.ldiA 5)).sequencerSound ∧
    step (executing (.ldiA 5)) = .next (after .workerstep (executing (.ldiA 5))) :=
  ⟨⟨by decide, by decide, by decide, by decide, by decide, by decide, sequencerSound_of_none (by decide)⟩, rfl, rfl,
    by decide, ⟨by decide, by decide, fun _ h => ⟨[0x3E, 0x05], h⟩, by decide⟩, rfl⟩

theorem witness_DevicesKeepTheirShape :
    (runningAt 0x1000).built = true ∧ (runningAt 0x1000).lifecycle ≠ .idle ∧
    (runningAt 0x1000).devices[1]?.map Device.policy = some .readOnly ∧
    step (runningAt 0x1000) = .next (after .workerstep (runningAt 0x1000)) :=
  ⟨rfl, by decide, by decide, rfl⟩

end Sys2Proof.Machine.Tests
end

section
/-! SUPPORT. Which command codes are `BUILD`'s (spec/30_encoding.md R91 to R93). -/

namespace Sys2Proof.Machine

/-- An access command moves data: it is an operation of a Router or of a Device, never `BUILD` (R91, R92). -/
theorem decodeAccess_ne_build (c : Command) (b : BuildArg) : decodeAccess c ≠ .ok (.build b) := by
  unfold decodeAccess
  generalize spaceOfBit (opSpace c.op) = sp
  generalize widthOfCode (opWidthCode c.op) = w
  split
  · exact fun h => nomatch h
  · split <;> cases sp <;> cases w <;> exact fun h => nomatch h

/-- Of the codes of R93 only `0xD0` is decoded as `BUILD`. -/
theorem op_of_decodeNamed_build {c : Command} {b : BuildArg} (h : decodeNamed c = .ok (.build b)) : c.op = 0xD0 := by
  unfold decodeNamed at h
  -- `h_17` is the arm of `0xD0`, `h_24` the one of all codes that stand in no other arm.
  split at h
  case h_17 hop _ => exact BitVec.eq_of_toNat_eq hop
  case h_24 => split at h <;> cases h
  all_goals cases h

/-- A command decoded as `BUILD` has `BUILD`'s code, so it is accepted before anything is built (R299). -/
theorem isBuildOp_of_decodeCommand_build {c : Command} {b : BuildArg} (h : decodeCommand c = .ok (.build b)) :
    isBuildOp c.op = true := by
  unfold decodeCommand at h
  split at h
  · exact absurd h (decodeAccess_ne_build c b)
  · simp [isBuildOp, op_of_decodeNamed_build h]

end Sys2Proof.Machine
end

section
/-! SUPPORT. What the next turn is, from the head of the schedule (spec/00_scope.md R15, 60_exceptions.md R299,
notes/assumptions/6.md), and what a step does with it. -/

namespace Sys2Proof.Machine

variable {s t : State} {c : Command} {rest : List PortEntry} {i : Instr}

/-! ### Taking an entry off the schedule changes nothing an agent looks at -/

@[simp] theorem withPort_active (s : State) (l : List PortEntry) : (s.withPort l).active = s.active := rfl
@[simp] theorem withPort_inFlight (s : State) (l : List PortEntry) : (s.withPort l).inFlight = s.inFlight := rfl
@[simp] theorem stopsAtBoundary_withPort (s : State) (l : List PortEntry) :
    stopsAtBoundary (s.withPort l) = stopsAtBoundary s := rfl

/-! ### A step from its turn -/

theorem step_of_idle (h : nextTurn s = .idle) : step s = .next s := by
  simp only [step, h]

theorem step_of_run (h : nextTurn s = .run i t) : step s = exec i t := by
  simp only [step, h]

theorem step_of_runThenTick (h : nextTurn s = .runThenTick i t) : step s = ticksAfter (exec i t) := by
  simp only [step, h]

/-! ### The turn from the schedule -/

theorem nextTurn_unscheduled_worker (hp : s.port = []) (ha : s.active = true) :
    nextTurn s = .run .workerstep s := by
  simp only [nextTurn, hp, ha, if_true]

theorem nextTurn_unscheduled_idle (hp : s.port = []) (ha : s.active = false) : nextTurn s = .idle := by
  simp only [nextTurn, hp, ha, Bool.false_eq_true, if_false]

/-- A controller waiting in `STOP` leaves its turn to the worker (R252). -/
theorem nextTurn_blocked (hp : s.port = ⟨.controller, c⟩ :: rest) (hb : s.blocked = true) :
    nextTurn s = .run .workerstep s := by
  simp only [nextTurn, hp, hb, if_true]

theorem nextTurn_controller (hp : s.port = ⟨.controller, c⟩ :: rest) (hb : s.blocked = false) :
    nextTurn s = controllerTurn c (s.withPort rest) := by
  simp only [nextTurn, hp, hb, Bool.false_eq_true, if_false]

theorem nextTurn_worker (hp : s.port = ⟨.worker, c⟩ :: rest) : nextTurn s = workerTurn c (s.withPort rest) := by
  simp only [nextTurn, hp]

/-! ### The turn of each agent with a command that decodes -/

/-- The controller runs its own commands once the block is built, and `BUILD` before (R299). -/
theorem controllerTurn_run (hd : decodeCommand c = .ok i) (hw : workerOnly i = false)
    (hb : s.built = true ∨ ∃ b, i = .build b) : controllerTurn c s = .run i s := by
  have accepted : (!s.built && !isBuildOp c.op) = false := by
    rcases hb with hb | ⟨b, rfl⟩
    · simp [hb]
    · simp [isBuildOp_of_decodeCommand_build hd]
  simp only [controllerTurn, hd, hw, accepted, Bool.false_eq_true, if_false]

/-- While there is a worker, its scheduled step is the part of an iteration that `workerPart` says (R299). -/
theorem workerTurn_part (hd : decodeCommand c = .ok i) (hw : workerOnly i = true) (ha : s.active = true) :
    workerTurn c s = workerPart i s := by
  simp only [workerTurn, hd, hw, ha, Bool.not_true, Bool.false_eq_true, if_false, if_true]

/-- A `FETCHI` of a worker asked to stop at a boundary is its exit (R253). -/
theorem workerPart_fetchi_exit (h : stopsAtBoundary s = true) : workerPart .fetchi s = .run .workerstep s :=
  if_pos ⟨rfl, h⟩

/-- An `EXECI` that completes the instruction in flight ends the iteration (R253, R258). -/
theorem workerPart_execi_inFlight (h : s.inFlight = true) : workerPart .execi s = .runThenTick .execi s := by
  simp [workerPart, h]

/-- Away from these two cases a scheduled step of the worker is itself. -/
theorem workerPart_run (hf : i = .fetchi → stopsAtBoundary s = false) (he : i = .execi → s.inFlight = false) :
    workerPart i s = .run i s := by
  have notExit : ¬(i = .fetchi ∧ stopsAtBoundary s = true) := fun ⟨hi, h⟩ => by simp [hf hi] at h
  have notEnd : ¬(i = .execi ∧ s.inFlight = true) := fun ⟨hi, h⟩ => by simp [he hi] at h
  rw [workerPart, if_neg notExit, if_neg notEnd]

end Sys2Proof.Machine
end

section
/-! PROOF. Steps and agents (spec/00_scope.md R15). -/

namespace Sys2Proof.Machine

/-- Settles O6: each clause is one kind of turn, and the step follows from the turn. -/
theorem stepRunsTheScheduledInstruction : Obligations.StepRunsTheScheduledInstruction := by
  intro s c rest i hd
  refine ⟨fun hp hb hw hbuilt => ?controller, fun hp ha hw => ?worker,
    fun hp hb => step_of_run (nextTurn_blocked hp hb),
    fun hp ha => step_of_run (nextTurn_unscheduled_worker hp ha),
    fun hp ha => step_of_idle (nextTurn_unscheduled_idle hp ha)⟩
  case controller =>
    have built : (s.withPort rest).built = true ∨ ∃ b, i = .build b := by simpa only [withPort_built] using hbuilt
    exact step_of_run ((nextTurn_controller hp hb).trans (controllerTurn_run hd hw built))
  case worker =>
    have turn : nextTurn s = workerPart i (s.withPort rest) :=
      (nextTurn_worker hp).trans (workerTurn_part hd hw ((withPort_active s rest).trans ha))
    refine ⟨fun hi stops => ?exit, fun hi inFlight => ?endOfIteration, fun hf he => ?alone⟩
    case exit =>
      subst hi
      exact step_of_run (turn.trans (workerPart_fetchi_exit ((stopsAtBoundary_withPort s rest).trans stops)))
    case endOfIteration =>
      subst hi
      exact step_of_runThenTick (turn.trans (workerPart_execi_inFlight ((withPort_inFlight s rest).trans inFlight)))
    case alone =>
      exact step_of_run (turn.trans (workerPart_run
        (fun hi => (stopsAtBoundary_withPort s rest).trans (hf hi))
        (fun hi => (withPort_inFlight s rest).trans (he hi))))

end Sys2Proof.Machine
end

section
/-! SUPPORT. What every step does, in one place: the moves the worker makes of its Processor (spec/43_processor.md,
44_engine.md R253), the effects the controller's commands have (60_exceptions.md R299), and the proof that a step is
made of these. An invariant of the steps is then a case per move and a case per effect. -/

namespace Sys2Proof.Machine

/-! ## The moves of the worker -/

/-- One move of the worker. An iteration is a chain of these, and so is each of the worker's steps taken singly. An
instruction of `ILL2` stores nothing, so a store stands only where an external target's instruction is decoded. -/
inductive WorkerMove (s : State) : State → Prop
  | beginFetch (hp : s.pstate = .reset ∨ s.pstate = .fetching) : WorkerMove s (beginFetch s)
  | consume (b : Byte) : WorkerMove s (consumeByte s b)
  | endFetch (hp : s.pstate = .fetching) (ha : s.active = true) : WorkerMove s (endFetch s)
  | decode (d : Decoded) (hp : s.pstate = .decoding) (hd : targetDecode s.target s.ibuf = some d) :
      WorkerMove s { s with decoded := some d, pstate := .executing }
  | writeReg {r : RegName} {w : Width} {v : Word} {f : RegFile} (hw : s.regs.width? r = some w)
      (hv : v.toNat < 2 ^ w.bits) (hf : s.regs.write r v = some f) : WorkerMove s (s.withRegs f)
  | store {n code dev off : Nat} {d d' : Device} {w : Width} {v : Word} (hx : s.decoded = some (.external n code))
      (hd : s.devices[dev]? = some d) (hw : d.write off w v = .ok d') : WorkerMove s (s.setDevice dev d')
  | retire (o : ExecOutcome) (stop : Bool) (answers : List CallbackAnswer) (count : Nat) (hp : s.pstate = .executing) :
      WorkerMove s (s.executed o stop answers count)
  | fault (c : Condition) (hp : s.pstate ≠ .halted) (ha : s.active = true) : WorkerMove s (takeFault s c)
  | tick : WorkerMove s (ticked s)
  | exit (hf : s.inFlight = false) (ha : s.active = true) : WorkerMove s (workerExit s)

/-- A chain of moves of the worker. -/
abbrev WorkerMoves : State → State → Prop := Relation.ReflTransGen WorkerMove

/-- What each move keeps, a chain of moves keeps. -/
theorem WorkerMoves.keep {P : State → Prop} (hP : ∀ s t, WorkerMove s t → P s → P t) {s t : State}
    (hm : WorkerMoves s t) (hs : P s) : P t := by
  induction hm with
  | refl => exact hs
  | tail _ hm ih => exact hP _ _ hm ih

/-! ### Fetch -/

/-- While there is a worker, `FETCHI` that ends is a chain of moves, and where it raises the Processor is not halted. -/
theorem fetchRun_moves {s : State} (ha : s.active = true) :
    (fetchRun s).Reached (fun x => WorkerMoves s x ∧ x.active = true)
      (fun x => WorkerMoves s x ∧ x.pstate = .fetching ∧ x.active = true) := by
  rcases fetchRun_cases s with ⟨_, h⟩ | ⟨_, _, h⟩ | ⟨_, _, h⟩ | ⟨_, hp, h⟩ <;> rw [h]
  · trivial
  · exact ⟨.refl, ha⟩
  · trivial
  · have loop := fetchLoop_keeps (P := fun x => WorkerMoves s x ∧ x.pstate = .fetching ∧ x.active = true)
      (fun x b ⟨hm, hx⟩ => ⟨hm.tail (.consume b), hx⟩) (targetMaxLen s.target) (beginFetch s)
      ⟨.single (.beginFetch hp), rfl, ha⟩
    generalize fetchLoop (targetMaxLen s.target) (beginFetch s) = r at loop ⊢
    cases r with
    | done x =>
      obtain ⟨y, ⟨hm, hy, hya⟩, rfl⟩ := loop
      exact ⟨hm.tail (.endFetch hy hya), hya⟩
    | raised x c => exact loop
    | refused r => trivial
    | stuck f => trivial

/-! ### Execute -/

/-- The end of an instruction, whatever the callback answers, is the end R214 describes. -/
theorem finishInstruction_executed {o : ExecOutcome} {s t : State} (hp : s.pstate = .executing)
    (h : finishInstruction o s = .done t) : ∃ stop answers count, t = s.executed o stop answers count := by
  obtain ⟨s₁, hc, rfl⟩ := finishInstruction_done h
  rcases callbackStep_done hc with ⟨_, rfl⟩ | ⟨cb, _, rfl | rfl⟩
  · refine ⟨false, s.dbgAnswers, s.dbgCount, ?_⟩
    cases o <;> simp [afterExec, haltWith, countInstruction, State.executed, hp]
  · refine ⟨false, s.dbgAnswers.tail, s.dbgCount + 1, ?_⟩
    rw [consultCallback_frame]
    cases o <;> simp [afterExec, haltWith, countInstruction, State.executed, hp]
  · refine ⟨true, s.dbgAnswers.tail, s.dbgCount + 1, ?_⟩
    rw [consultCallback_frame]
    cases o <;> simp [afterExec, haltWith, countInstruction, State.executed, hp]

/-- The accesses of a decoded instruction are moves, which leave the sequencer and the lifecycle alone. -/
theorem runTree_moves {s : State} {d : Decoded} (hd : s.decoded = some d) :
    (runTree (targetExec d) s).Reached fun x =>
      WorkerMoves s x ∧ x.decoded = some d ∧ x.pstate = s.pstate ∧ x.active = s.active := by
  have write : ∀ x r v x', (WorkerMoves s x ∧ x.decoded = some d ∧ x.pstate = s.pstate ∧ x.active = s.active) →
      writeRegisterExact x r v = some x' →
      WorkerMoves s x' ∧ x'.decoded = some d ∧ x'.pstate = s.pstate ∧ x'.active = s.active := by
    rintro x r v x' ⟨hm, hx⟩ h
    obtain ⟨w, f, hw, hv, hf, rfl⟩ := writeRegisterExact_some h
    exact ⟨hm.tail (.writeReg hw hv hf), hx⟩
  cases d with
  | ldiA imm =>
    simp only [targetExec, ldiATree, runTree]
    cases h : writeRegisterExact s .a (imm.setWidth 64) with
    | none => trivial
    | some x => exact write s .a _ x ⟨.refl, hd, rfl, rfl⟩ h
  | hlt => exact ⟨.refl, hd, rfl, rfl⟩
  | external n code =>
    refine runTree_keeps write ?_ (Config.externalExec n code) s ⟨.refl, hd, rfl, rfl⟩
    rintro x sp a w v x' ⟨hm, hx, hrest⟩ h
    obtain ⟨t, d', hr, hw, rfl⟩ := routerWrite_ok h
    obtain ⟨e, _, _, hdev, ht, _⟩ := route_ok hr
    exact ⟨hm.tail (.store hx (ht ▸ hdev) hw), hx, hrest⟩

/-- `EXECI` on a decoded instruction is a chain of moves, and where it raises the Processor is not halted. -/
theorem executeDecoded_moves {s : State} (ha : s.active = true) :
    (executeDecoded s).Reached (WorkerMoves s)
      (fun x => WorkerMoves s x ∧ x.pstate ≠ .halted ∧ x.active = true) := by
  rcases executeDecoded_cases s with ⟨_, h⟩ | ⟨hp, d, hd, h⟩ | ⟨_, _, h⟩ <;> rw [h]
  · exact .refl
  · have tree := runTree_moves hd
    rcases executeTree_cases (targetExec d) s with ⟨hh, _⟩ | ⟨_, x, o, ht, h'⟩ | ⟨_, x, c, ht, h'⟩ | ⟨_, r, _, h'⟩ |
      ⟨_, _, h'⟩ | ⟨_, hne, _⟩
    · exact absurd (hh.symm.trans hp) (by decide)
    · rw [ht] at tree
      obtain ⟨hm, _, hx, _⟩ := tree
      rw [h']
      cases hf : finishInstruction o x with
      | done t =>
        obtain ⟨stop, answers, count, rfl⟩ := finishInstruction_executed (hx.trans hp) hf
        exact hm.tail (.retire o stop answers count (hx.trans hp))
      | raised t c => exact absurd hf (finishInstruction_not_raised o x t c)
      | refused r => trivial
      | stuck f => trivial
    · rw [ht] at tree
      obtain ⟨hm, _, hx, hxa⟩ := tree
      rw [h']
      exact ⟨hm, by simp [hx, hp], hxa.trans ha⟩
    · rw [h']; trivial
    · rw [h']; trivial
    · exact absurd hp hne
  · trivial

/-- A chain of moves before a step of the Processor that is itself a chain of moves. -/
theorem reached_after {s s₁ : State} {Q : State → Prop} {r : Run} (hm : WorkerMoves s s₁)
    (h : r.Reached (WorkerMoves s₁) (fun x => WorkerMoves s₁ x ∧ Q x)) :
    r.Reached (WorkerMoves s) (fun x => WorkerMoves s x ∧ Q x) := by
  cases r with
  | done x => exact hm.trans h
  | raised x c => exact ⟨hm.trans h.1, h.2⟩
  | refused r => trivial
  | stuck f => trivial

/-- `EXECI`, with the decoding it begins with where `FETCHI` has just ended, is a chain of moves. -/
theorem execRun_moves {s : State} (ha : s.active = true) :
    (execRun s).Reached (WorkerMoves s) (fun x => WorkerMoves s x ∧ x.pstate ≠ .halted ∧ x.active = true) := by
  rcases execRun_cases s with ⟨hp, d, hd, h⟩ | ⟨_, _, h⟩ | ⟨_, h⟩ <;> rw [h]
  · exact reached_after (.single (.decode d hp hd)) (executeDecoded_moves ha)
  · trivial
  · exact executeDecoded_moves ha

/-! ### The worker's steps -/

/-- A step of the Processor taken by the worker: its moves, and the fault halt where it raises. -/
theorem workerOutcome_moves {s t : State} {r : Run}
    (hr : r.Reached (WorkerMoves s) (fun x => WorkerMoves s x ∧ x.pstate ≠ .halted ∧ x.active = true))
    (h : workerOutcome r = .next t) : WorkerMoves s t := by
  rcases workerOutcome_next h with rfl | ⟨x, c, rfl, rfl⟩
  · exact hr
  · obtain ⟨hm, hp, ha⟩ := hr
    exact hm.tail (.fault c hp ha)

/-- The ticks that follow moves. -/
theorem ticksAfter_moves {s t : State} {o : Host.Outcome State Fault Refusal}
    (ho : ∀ x, o = .next x → WorkerMoves s x) (h : ticksAfter o = .next t) : WorkerMoves s t := by
  obtain ⟨x, hx, ⟨_, rfl⟩ | ⟨_, _, rfl⟩⟩ := ticksAfter_next h
  · exact ho _ hx
  · exact (ho _ hx).tail .tick

theorem execExeci_moves {s t : State} (ha : s.active = true) (h : execExeci s = .next t) : WorkerMoves s t :=
  workerOutcome_moves (execRun_moves ha) h

theorem completeIteration_moves {s t : State} (ha : s.active = true) (h : completeIteration s = .next t) :
    WorkerMoves s t :=
  ticksAfter_moves (fun _ hx => execExeci_moves ha hx) h

theorem execFetchi_moves {s t : State} (ha : s.active = true) (h : execFetchi s = .next t) : WorkerMoves s t := by
  have fetch := fetchRun_moves ha
  rcases workerOutcome_next h with hr | ⟨x, c, hr, rfl⟩ <;> rw [hr] at fetch
  · exact fetch.1
  · obtain ⟨hm, hp, hx⟩ := fetch
    exact hm.tail (.fault c (by simp [hp]) hx)

theorem execDecodei_moves {s t : State} (h : execDecodei s = .next t) : WorkerMoves s t := by
  unfold execDecodei at h
  rcases decodeRun_cases s with ⟨_, hr⟩ | ⟨hp, d, hd, hr⟩ | ⟨_, _, hr⟩ | ⟨_, _, hr⟩ <;> rw [hr] at h <;> cases h
  · exact .refl
  · exact .single (.decode d hp hd)

theorem iteration_moves {s t : State} (ha : s.active = true) (h : iteration s = .next t) : WorkerMoves s t := by
  have fetch := fetchRun_moves ha
  rcases iteration_next h with ⟨x, c, hr, rfl⟩ | ⟨x, hr, h'⟩ <;> rw [hr] at fetch
  · obtain ⟨hm, hp, hx⟩ := fetch
    exact hm.tail (.fault c (by simp [hp]) hx)
  · exact fetch.1.trans (completeIteration_moves fetch.2 h')

/-- `WORKERSTEP` is a chain of moves (R253). -/
theorem execWorkerstep_moves {s t : State} (h : execWorkerstep s = .next t) : WorkerMoves s t := by
  rcases execWorkerstep_cases s with ⟨_, h'⟩ | ⟨ha, _, h'⟩ | ⟨ha, hf, _, h'⟩ | ⟨ha, _, _, h'⟩ <;> rw [h'] at h
  · cases h
  · exact completeIteration_moves ha h
  · cases h
    exact .single (.exit hf ha)
  · exact iteration_moves ha h

/-- Every step of the worker, taken while there is one, is a chain of moves (R93, R299). -/
theorem exec_workerMoves {i : Instr} {s t : State} (hw : workerOnly i = true) (ha : s.active = true)
    (h : exec i s = .next t) : WorkerMoves s t := by
  cases i with
  | fetchi => exact execFetchi_moves ha h
  | decodei => exact execDecodei_moves h
  | execi => exact execExeci_moves ha h
  | workerstep => exact execWorkerstep_moves h
  | initthread | exitthread | flushthread => cases h; exact .refl
  | _ => cases hw

/-! ## The effects of the controller's commands -/

/-- The effect of one command of the controller. -/
inductive CommandEffect (i : Instr) (s : State) : State → Prop
  | respond (r : Response) : CommandEffect i s { s with response := r }
  | store {dev off : Nat} {d d' : Device} {w : Width} {v : Word} (hq : s.quiet = true)
      (hd : s.devices[dev]? = some d) (hw : d.write off w v = .ok d') :
      CommandEffect i s ((s.setDevice dev d').answer .none)
  | load {dev : Nat} {bytes : List Byte} {d d' : Device} (hl : s.lifecycle = .idle) (hd : s.devices[dev]? = some d)
      (hb : d.load bytes = .ok d') : CommandEffect i s ((s.setDevice dev { d' with loaded := true }).answer .none)
  | register {sp : Space} {dev base size : Nat} {s' : State} (hr : register s sp dev base size = .ok s') :
      CommandEffect i s (s'.answer .none)
  | writeReg {r : RegName} {w : Width} {v : Word} {f : RegFile} (hq : s.quiet = true)
      (hw : s.regs.width? r = some w) (hf : s.regs.write r (sliceData w v) = some f) :
      CommandEffect i s ((s.withRegs f).answer .none)
  | setup (hq : s.quiet = true) : CommandEffect i s ((setupSpaces .mem .io s).answer .none)
  | reset (hi : i = .reset) (hq : s.quiet = true) : CommandEffect i s ((resetProcessor s).answer .none)
  | callback (cb : Option Nat) (hq : s.quiet = true) : CommandEffect i s ({ s with dbg := cb }.answer .none)
  | build {b : BuildArg} {s' : State} {failed : Option Condition} (r : Response) (hb : s.built = false)
      (hwf : b.wf = true) (hl : buildLoop b.config (beginBuild b s) = .ok (s', failed)) :
      CommandEffect i s { finishBuild b s' with response := r }
  | start (hf : s.buildFailed = false) (hq : s.quiet = true) : CommandEffect i s ((startWorker s).answer .none)
  | stop (hl : s.lifecycle = .running) : CommandEffect i s { setDying s with lifecycle := .stopping, blocked := true }
  | wait (hl : s.lifecycle = .stopping) : CommandEffect i s { s with blocked := true }

section
variable {i : Instr} {s t : State}

theorem readCommand_effect {w : Width} {a : Access Word} (h : whenQuiet s (answerRead s w a) = .next t) :
    CommandEffect i s t := by
  rcases answerRead_next (whenQuiet_next h).2 with ⟨v, _, rfl⟩ | ⟨c, _, rfl⟩ <;> exact .respond _

theorem routerWriteCommand_effect {sp : Space} {w : Width} {a : Nat} {v : Word}
    (h : routerWriteCommand sp w a v s = .next t) : CommandEffect i s t := by
  obtain ⟨hq, h⟩ := whenQuiet_next h
  rcases answerWrite_next h with ⟨s', hs, rfl⟩ | ⟨c, _, rfl⟩
  · obtain ⟨r, d', hr, hw, rfl⟩ := routerWrite_ok hs
    obtain ⟨e, _, _, hd, hdev, _⟩ := route_ok hr
    exact .store hq (hdev ▸ hd) hw
  · exact .respond _

theorem deviceWriteCommand_effect {w : Width} {dev off : Nat} {v : Word}
    (h : deviceWriteCommand w dev off v s = .next t) : CommandEffect i s t := by
  obtain ⟨hq, h⟩ := whenQuiet_next h
  rcases answerWrite_next h with ⟨s', hs, rfl⟩ | ⟨c, _, rfl⟩
  · obtain ⟨d, d', hd, hw, rfl⟩ := deviceWrite_ok hs
    exact .store hq hd hw
  · exact .respond _

theorem register_effect {sp : Space} {dev base size : Nat}
    (h : answerWrite s (register s sp dev base size) = .next t) : CommandEffect i s t := by
  rcases answerWrite_next h with ⟨s', hs, rfl⟩ | ⟨c, _, rfl⟩
  · exact .register hs
  · exact .respond _

theorem execDload_effect {dev : Nat} {bytes : List Byte} (h : execDload dev bytes s = .next t) :
    CommandEffect i s t := by
  rcases answerWrite_next h with ⟨s', hs, rfl⟩ | ⟨c, _, rfl⟩
  · obtain ⟨hl, d, d', hd, _, _, hb, rfl⟩ := loadRom_ok hs
    exact .load hl hd hb
  · exact .respond _

theorem execRdreg_effect {r : RegName} (h : execRdreg r s = .next t) : CommandEffect i s t := by
  obtain ⟨_, h⟩ := whenQuiet_next h
  split at h <;> cases h <;> exact .respond _

theorem execWrreg_effect {r : RegName} {v : Word} (h : execWrreg r v s = .next t) : CommandEffect i s t := by
  obtain ⟨hq, h⟩ := whenQuiet_next h
  rcases answerWrite_next h with ⟨s', hs, rfl⟩ | ⟨c, _, rfl⟩
  · obtain ⟨w, f, hw, hf, rfl⟩ := writeRegisterSlice_ok hs
    exact .writeReg hq hw hf
  · exact .respond _

theorem execSetup_effect {m p : Space} (h : execSetup m p s = .next t) : CommandEffect i s t := by
  obtain ⟨hq, h⟩ := whenQuiet_next h
  split at h
  · next hs =>
    obtain ⟨rfl, rfl⟩ := hs
    cases h
    exact .setup hq
  · cases h

theorem execAsm_effect {text : Text} (h : execAsm text s = .next t) : CommandEffect i s t := by
  unfold execAsm at h
  split at h <;> cases h <;> exact .respond _

theorem execDisasm_effect {bytes : List Byte} (h : execDisasm bytes s = .next t) : CommandEffect i s t := by
  unfold execDisasm at h
  split at h <;> cases h <;> exact .respond _

theorem execBuild_effect {b : BuildArg} (h : execBuild b s = .next t) : CommandEffect i s t := by
  unfold execBuild at h
  split at h
  · cases h
  · next hb =>
    split at h
    · cases h
    · next hwf =>
      have hb : s.built = false := by simpa using hb
      have hwf : b.wf = true := by simpa using hwf
      split at h
      · next hl => cases h; exact .build _ hb hwf hl
      · next hl => cases h; exact .build _ hb hwf hl
      · cases h; exact .respond _
      · cases h

theorem execStart_effect (h : execStart s = .next t) : CommandEffect i s t := by
  unfold execStart at h
  split at h
  · cases h; exact .respond _
  · next hf =>
    split at h
    · next hq => cases h; exact .start (by simpa using hf) hq
    · cases h; exact .respond _

theorem execStop_effect (h : execStop s = .next t) : CommandEffect i s t := by
  unfold execStop at h
  split at h <;> cases h
  · next hl => exact .stop hl
  · next hl => exact .wait hl
  · exact .respond _
  · exact .respond _

end

/-- Every command of the controller has one of these effects (R92, R93). -/
theorem exec_commandEffect {i : Instr} {s t : State} (hd : decodedOf i = none) (hw : workerOnly i = false)
    (h : exec i s = .next t) : CommandEffect i s t := by
  cases i with
  | fetch8 | fetch16 | fetch32 | fetch64 | in8 | in16 | in32 | in64 => exact readCommand_effect h
  | dfetch8 | dfetch16 | dfetch32 | dfetch64 | din8 | din16 | din32 | din64 => exact readCommand_effect h
  | store8 | store16 | store32 | store64 | out8 | out16 | out32 | out64 => exact routerWriteCommand_effect h
  | dstore8 | dstore16 | dstore32 | dstore64 | dout8 | dout16 | dout32 | dout64 => exact deviceWriteCommand_effect h
  | regm | regio => exact register_effect h
  | dload => exact execDload_effect h
  | rdreg => exact execRdreg_effect h
  | wrreg => exact execWrreg_effect h
  | getregs | printregs => cases (whenQuiet_next h).2; exact .respond _
  | setup => exact execSetup_effect h
  | reset =>
    obtain ⟨hq, h⟩ := whenQuiet_next h
    cases h
    exact .reset rfl hq
  | setupdebug | stopdebug =>
    obtain ⟨hq, h⟩ := whenQuiet_next h
    cases h
    exact .callback _ hq
  | asm => exact execAsm_effect h
  | disasm => exact execDisasm_effect h
  | build => exact execBuild_effect h
  | start => exact execStart_effect h
  | stop => exact execStop_effect h
  | fetchi | decodei | execi | initthread | exitthread | flushthread | workerstep => cases hw
  | ldiA | hlt => cases hd

/-! ## The steps -/

/-- The port carries no instruction of the stream: an access command moves data (R92). -/
theorem decodedOf_of_decodeAccess {c : Command} {i : Instr} (h : decodeAccess c = .ok i) : decodedOf i = none := by
  unfold decodeAccess at h
  generalize spaceOfBit (opSpace c.op) = sp at h
  generalize widthOfCode (opWidthCode c.op) = w at h
  split at h
  · cases h
  · split at h <;> cases h <;> cases sp <;> cases w <;> rfl

/-- The port carries no instruction of the stream: the codes of R93 are the block's own operations. -/
theorem decodedOf_of_decodeNamed {c : Command} {i : Instr} (h : decodeNamed c = .ok i) : decodedOf i = none := by
  unfold decodeNamed at h
  split at h
  case h_24 => split at h <;> cases h
  all_goals cases h; rfl

/-- The port carries no instruction of the stream (R90 to R96). -/
theorem decodedOf_of_decodeCommand {c : Command} {i : Instr} (h : decodeCommand c = .ok i) : decodedOf i = none := by
  unfold decodeCommand at h
  split at h
  · exact decodedOf_of_decodeAccess h
  · exact decodedOf_of_decodeNamed h

/-- Every step that goes on, with the schedule it leaves: nothing at all, moves of the worker, or the effect of the
controller's scheduled command (R15, R299). -/
theorem step_effect {s t : State} (h : step s = .next t) :
    t = s ∨ ∃ l, WorkerMoves (s.withPort l) t ∨
      ∃ c i, s.port = ⟨.controller, c⟩ :: l ∧ decodeCommand c = .ok i ∧ CommandEffect i (s.withPort l) t := by
  rcases step_next h with ⟨_, _, rfl⟩ | ⟨_, h⟩ | ⟨c, rest, i, _, _, hw, ha, h⟩ | ⟨c, rest, i, hp, _, hd, hw, _, h⟩
  · exact Or.inl rfl
  · exact Or.inr ⟨s.port, Or.inl (execWorkerstep_moves h)⟩
  · refine Or.inr ⟨rest, Or.inl ?_⟩
    rcases h with ⟨_, _, h⟩ | ⟨_, _, h⟩ | h
    · exact execWorkerstep_moves h
    · exact ticksAfter_moves (fun _ hx => execExeci_moves ha hx) h
    · exact exec_workerMoves hw ha h
  · exact Or.inr ⟨rest, Or.inr ⟨c, i, hp, hd, exec_commandEffect (decodedOf_of_decodeCommand hd) hw h⟩⟩

/-- An invariant of the steps: it does not read the schedule, every move of the worker keeps it, and so does the effect
of every command of the controller. -/
theorem step_keeps {P : State → Prop} (hport : ∀ s l, P s → P (s.withPort l))
    (hworker : ∀ s t, WorkerMove s t → P s → P t) (hcommand : ∀ i s t, CommandEffect i s t → P s → P t) {s t : State}
    (hs : P s) (h : step s = .next t) : P t := by
  rcases step_effect h with rfl | ⟨l, hm | ⟨c, i, _, _, he⟩⟩
  · exact hs
  · exact hm.keep hworker (hport s l hs)
  · exact hcommand i _ t he (hport s l hs)

end Sys2Proof.Machine
end

section
/-! PROOF. The halt (spec/43_processor.md R225, 60_exceptions.md R298). -/

namespace Sys2Proof.Machine

/-- A Processor halted by this cause, with this fault record and this index. -/
structure State.HaltedAs (cause : HaltCause) (fault : Option Condition) (index : BitVec 64) (s : State) : Prop where
  pstate : s.pstate = .halted
  cause : s.haltCause = cause
  record : s.fault = fault
  index : s.instrIndex = index

/-- A halted Processor begins, decodes, completes and faults nothing, so no move of the worker changes its halt (R225). -/
theorem WorkerMove.keep_haltedAs {cause : HaltCause} {fault : Option Condition} {index : BitVec 64} {s t : State}
    (hm : WorkerMove s t) (h : s.HaltedAs cause fault index) : t.HaltedAs cause fault index := by
  obtain ⟨hp, hc, hf, hi⟩ := h
  cases hm with
  | beginFetch hp' => rcases hp' with hp' | hp' <;> cases hp.symm.trans hp'
  | endFetch hp' => cases hp.symm.trans hp'
  | decode d hp' => cases hp.symm.trans hp'
  | retire o stop answers count hp' => cases hp.symm.trans hp'
  | fault c hp' => exact absurd hp hp'
  | consume | writeReg | store | tick | exit => exact ⟨hp, hc, hf, hi⟩

/-- Of the commands of a built block only `RESET` touches the halt (R298). -/
theorem CommandEffect.haltedAs_or_reset {cause : HaltCause} {fault : Option Condition} {index : BitVec 64} {i : Instr}
    {s t : State} (he : CommandEffect i s t) (hb : s.built = true) (h : s.HaltedAs cause fault index) :
    t.HaltedAs cause fault index ∨ i = .reset ∧ t.pstate = .reset ∧ t.haltCause = .none ∧ t.fault = none := by
  obtain ⟨hp, hc, hf, hi⟩ := h
  cases he with
  | reset hi => exact Or.inr ⟨hi, rfl, rfl, rfl⟩
  | build r hb' => cases hb.symm.trans hb'
  | @register sp _ _ _ _ hr =>
    obtain ⟨_, _, _, _, d, _, rfl⟩ := register_ok hr
    cases sp <;> exact Or.inl ⟨hp, hc, hf, hi⟩
  | respond | store | load | writeReg | setup | callback | start | stop | wait => exact Or.inl ⟨hp, hc, hf, hi⟩

/-- Settles O37: the halt is kept by every move and every effect but that of `RESET`. -/
theorem onlyResetLeavesHalted : Obligations.OnlyResetLeavesHalted := by
  intro s t hb hp h
  have halt : s.HaltedAs s.haltCause s.fault s.instrIndex := ⟨hp, rfl, rfl, rfl⟩
  have answer : t.HaltedAs s.haltCause s.fault s.instrIndex →
      t.pstate = .halted ∧ t.haltCause = s.haltCause ∧ t.fault = s.fault ∧ t.instrIndex = s.instrIndex :=
    fun ⟨h₁, h₂, h₃, h₄⟩ => ⟨h₁, h₂, h₃, h₄⟩
  rcases step_effect h with rfl | ⟨l, hm | ⟨c, i, hport, hd, he⟩⟩
  · exact Or.inl (answer halt)
  · have halt' : (s.withPort l).HaltedAs s.haltCause s.fault s.instrIndex := ⟨hp, rfl, rfl, rfl⟩
    exact Or.inl (answer (hm.keep (fun _ _ => WorkerMove.keep_haltedAs) halt'))
  · rcases he.haltedAs_or_reset (cause := s.haltCause) hb ⟨hp, rfl, rfl, rfl⟩ with halted | ⟨rfl, reset⟩
    · exact Or.inl (answer halted)
    · exact Or.inr ⟨c, l, hport, hd, reset⟩

end Sys2Proof.Machine
end

section
/-! PROOF. `FETCHI` over the bytes of one instruction (spec/43_processor.md R212). -/

namespace Sys2Proof.Machine

/-- Settles O30: the loop of `FETCHI` over the bytes at the program counter, from none of them on. -/
theorem fetchiReadsOneInstruction : Obligations.FetchiReadsOneInstruction := by
  intro s bytes ⟨hs, hp, hm⟩ hr hne hlen hh hmore hdone
  have start : beginFetch s = s.consumed (bytes.take 0) .fetching := (consumed_nil s hr .fetching).symm
  have loop : fetchRun s = .done (s.consumed bytes .decoding) := by
    rcases fetchRun_cases s with ⟨h, _⟩ | ⟨_, h, _⟩ | ⟨_, h, _⟩ | ⟨_, _, h⟩
    · cases hs.symm.trans h
    · simp [h] at hp
    · rcases h with h | h <;> simp [h] at hp
    · rw [h, start]
      exact (fetchLoop_bytes s hm bytes hh hmore _ 0 (List.length_pos_of_ne_nil hne) (by simpa using hlen)).1 hdone
  show workerOutcome (fetchRun s) = _
  rw [loop]
  rfl

end Sys2Proof.Machine
end

section
/-! PROOF. What a `WORKERSTEP` may change (spec/44_engine.md R253). -/

namespace Sys2Proof.Machine

/-- State `s` with every field the worker may change taken from `t`. -/
def State.withWorkerFields (s t : State) : State :=
  { s with
    devices := t.devices
    regs := t.regs
    pstate := t.pstate
    haltCause := t.haltCause
    fault := t.fault
    instrIndex := t.instrIndex
    ibuf := t.ibuf
    decoded := t.decoded
    lifecycle := t.lifecycle
    periph := t.periph
    response := t.response
    blocked := t.blocked
    dbgAnswers := t.dbgAnswers
    dbgCount := t.dbgCount }

/-- Each move of the worker changes fields the worker may change, and no other. -/
theorem WorkerMove.frame {s t : State} (hm : WorkerMove s t) : t = s.withWorkerFields t := by
  cases hm <;> rfl

theorem WorkerMoves.frame {s t : State} (hm : WorkerMoves s t) : t = s.withWorkerFields t := by
  refine hm.keep (P := fun x => x = s.withWorkerFields x) (fun x y hxy hx => ?_) rfl
  have hy := hxy.frame
  rw [hx] at hy
  exact hy

/-- With the target `ILL2`, what is decoded is an answer of its `Decode`, and the Devices are as they were. -/
structure State.Ill2Keeps (devices : List Device) (s : State) : Prop where
  target : s.target = .ill2
  decoded : s.decodedByTarget
  devices : s.devices = devices

/-- No move of a worker that runs `ILL2` is a store, because only an external target's instructions store (R222). -/
theorem WorkerMove.keep_ill2 {ds : List Device} {s t : State} (hm : WorkerMove s t) (h : s.Ill2Keeps ds) :
    t.Ill2Keeps ds := by
  obtain ⟨ht, hdec, hds⟩ := h
  cases hm with
  | store hx =>
    obtain ⟨bytes, hb⟩ := hdec _ hx
    rw [ht] at hb
    rcases targetDecode_ill2 hb with ⟨_, h⟩ | h <;> cases h
  | decode d hp hd => exact ⟨ht, fun d' hd' => ⟨s.ibuf, hd'.symm ▸ hd⟩, hds⟩
  | retire => exact ⟨ht, fun _ h => (nomatch h), hds⟩
  | beginFetch | consume | endFetch | writeReg | fault | tick | exit => exact ⟨ht, hdec, hds⟩

/-- Settles O49: the frame of each move, and that none of `ILL2` is a store. -/
theorem workerstepFrame : Obligations.WorkerstepFrame := by
  intro s t h
  have hm : WorkerMoves s t := execWorkerstep_moves h
  refine ⟨hm.frame, fun ⟨_, _, hdec, _⟩ ht dev j => ?_⟩
  have kept := hm.keep (fun _ _ => WorkerMove.keep_ill2) (⟨ht, hdec, rfl⟩ : s.Ill2Keeps s.devices)
  simp only [State.storageByte, kept.devices]

end Sys2Proof.Machine
end

section
/-! SUPPORT. What the construction of the block keeps (spec/44_engine.md R250). -/

namespace Sys2Proof.Machine

/-- The Devices the loop of `BUILD` appends for an element: the new one, and the new one with its initial contents. -/
def MadeFrom (c : ConfigEntry) (d : Device) : Prop := d = newDevice c ∨ loadInitial c (newDevice c) = .ok d

/-- What the loop of `BUILD` keeps: a property kept by the appending of an element's Device, by a registration and by
the mark of a failed build holds in the state the loop ends in, whether an element failed or not. -/
theorem buildLoop_keeps {P : State → Prop}
    (hadd : ∀ s c d, c.init.fits c.size = true → MadeFrom c d → P s → P (s.addDevice d))
    (hregister : ∀ s sp dev base size s', register s sp dev base size = .ok s' → P s → P s')
    (hfail : ∀ s, P s → P { s with buildFailed := true }) {s' : State} {failed : Option Condition}
    (l : List ConfigEntry) :
    ∀ s, (∀ c ∈ l, c.init.fits c.size = true) → P s → buildLoop l s = .ok (s', failed) → P s' := by
  induction l with
  | nil =>
    intro s _ hs h
    cases h
    exact hs
  | cons c rest ih =>
    intro s hfit hs h
    have hc := hfit c List.mem_cons_self
    unfold buildLoop at h
    split at h
    · cases h
      exact hfail _ (hadd s c _ hc (Or.inl rfl) hs)
    · next d hd =>
      have hs' := hadd s c d hc (Or.inr hd) hs
      split at h
      · next s₁ hr =>
        exact ih s₁ (fun c' hc' => hfit c' (List.mem_cons_of_mem _ hc')) (hregister _ _ _ _ _ _ hr hs') h
      · cases h
        exact hfail _ hs'
      · cases h

/-- What a well-formed operand of `BUILD` says of its Devices and of its schema (R250). -/
theorem BuildArg.wf_parts {b : BuildArg} (h : b.wf = true) :
    (∀ c ∈ b.config, c.init.fits c.size = true) ∧ (∀ d ∈ b.spares, d.init.fits d.size = true) ∧
      (Config.regSpecOf b.target).wf b.awMem = true := by
  simp only [BuildArg.wf, ConfigEntry.wf, DeviceSpec.wf, Bool.and_eq_true, List.all_eq_true] at h
  obtain ⟨⟨⟨_, hconfig⟩, hspares⟩, hregs⟩ := h
  exact ⟨fun c hc => (hconfig c hc).2, fun d hd => (hspares d hd).2, hregs⟩

end Sys2Proof.Machine
end

section
/-! PROOF. Every step keeps the storages (spec/10_state.md R20, R21). -/

namespace Sys2Proof.Machine

/-- A Device whose storage is in canonical form with every listed byte inside it: what `State.storagesCanonical` says of
each Device. -/
abbrev Device.canonical (d : Device) : Prop := d.storage.wf ∧ ∀ c ∈ d.storage.cells, c.1 < d.size

theorem Device.canonical_writeSpan {d : Device} (h : d.canonical) {off : Nat} {bs : List Byte}
    (hs : off + bs.length ≤ d.size) : Device.canonical { d with storage := d.storage.writeSpan off bs } := by
  refine ⟨Memory.writeSpan_wf h.1 off bs, fun c hc => ?_⟩
  rcases Memory.mem_writeSpan hc with hc | ⟨_, hc⟩
  · exact h.2 c hc
  · exact Nat.lt_of_lt_of_le hc hs

/-- A Device write that succeeds lies inside the Device (R121). -/
theorem Device.canonical_write {d d' : Device} {off : Nat} {w : Width} {v : Word} (h : d.canonical)
    (hw : d.write off w v = .ok d') : d'.canonical := by
  obtain ⟨_, hs, rfl⟩ := Device.write_ok hw
  exact Device.canonical_writeSpan h (by simpa using hs)

/-- A byte list that is loaded lies inside the Device (R138). -/
theorem Device.canonical_load {d d' : Device} {bytes : List Byte} (h : d.canonical) (hb : d.load bytes = .ok d') :
    d'.canonical := by
  rcases d.load_cases bytes with ⟨_, hl⟩ | ⟨hs, hl⟩ <;> rw [hl] at hb <;> cases hb
  exact Device.canonical_writeSpan h (by simpa using hs)

theorem newDevice_canonical {c : ConfigEntry} (h : c.init.fits c.size = true) : (newDevice c).canonical := by
  have hs : 0 + c.init.bytes.length ≤ c.size := by simpa [InitBytes.fits] using h
  exact Device.canonical_writeSpan (d := { newDevice c with storage := { fill := c.init.fill, cells := [] } })
    ⟨Memory.empty_wf _, by simp⟩ hs

theorem newSpare_canonical {d : DeviceSpec} (h : d.init.fits d.size = true) : (newSpare d).canonical := by
  have hs : 0 + d.init.bytes.length ≤ d.size := by simpa [InitBytes.fits] using h
  exact Device.canonical_writeSpan (d := { newSpare d with storage := { fill := d.init.fill, cells := [] } })
    ⟨Memory.empty_wf _, by simp⟩ hs

theorem MadeFrom.canonical {c : ConfigEntry} {d : Device} (hm : MadeFrom c d) (h : c.init.fits c.size = true) :
    d.canonical := by
  rcases hm with rfl | hd
  · exact newDevice_canonical h
  · unfold loadInitial at hd
    split at hd
    · cases hd
      exact newDevice_canonical h
    · split at hd
      · cases hd
      · next hl =>
        have loaded := Device.canonical_load (newDevice_canonical h) hl
        cases hd
        split <;> exact loaded

theorem storagesCanonical_setDevice {s : State} {i : Nat} {d : Device} (h : s.storagesCanonical) (hd : d.canonical) :
    (s.setDevice i d).storagesCanonical := by
  intro x hx
  rcases List.mem_or_eq_of_mem_set hx with hx | rfl
  · exact h x hx
  · exact hd

/-- Appended Devices that are canonical, as `BUILD` makes them (R250). -/
theorem storagesCanonical_append {s t : State} {ds : List Device} (h : s.storagesCanonical)
    (hds : ∀ d ∈ ds, d.canonical) (ht : t.devices = s.devices ++ ds) : t.storagesCanonical := by
  intro x hx
  rw [ht] at hx
  rcases List.mem_append.1 hx with hx | hx
  · exact h x hx
  · exact hds x hx

theorem storagesCanonical_register {s s' : State} {sp : Space} {dev base size : Nat}
    (hr : register s sp dev base size = .ok s') (h : s.storagesCanonical) : s'.storagesCanonical := by
  obtain ⟨_, _, _, _, d, hd, rfl⟩ := register_ok hr
  refine storagesCanonical_setDevice ?_ (d := { d with base := base }) (h d (List.mem_of_getElem? hd))
  cases sp <;> exact h

theorem WorkerMove.keep_storages {s t : State} (hm : WorkerMove s t) (h : s.storagesCanonical) :
    t.storagesCanonical := by
  cases hm with
  | store hx hd hw =>
    exact storagesCanonical_setDevice h (Device.canonical_write (h _ (List.mem_of_getElem? hd)) hw)
  | beginFetch | consume | endFetch | decode | writeReg | retire | fault | tick | exit => exact h

theorem CommandEffect.keep_storages {i : Instr} {s t : State} (he : CommandEffect i s t) (h : s.storagesCanonical) :
    t.storagesCanonical := by
  cases he with
  | store hq hd hw =>
    exact storagesCanonical_setDevice h (Device.canonical_write (h _ (List.mem_of_getElem? hd)) hw)
  | @load _ _ _ d' hl hd hb =>
    have loaded : d'.canonical := Device.canonical_load (h _ (List.mem_of_getElem? hd)) hb
    exact storagesCanonical_setDevice (d := { d' with loaded := true }) h loaded
  | register hr =>
    have kept := storagesCanonical_register hr h
    exact kept
  | @build b s' failed r hb hwf hl =>
    obtain ⟨hconfig, hspares, _⟩ := BuildArg.wf_parts hwf
    have layout : s'.storagesCanonical := by
      refine buildLoop_keeps (fun x c d hc hm hx => ?_) (fun _ _ _ _ _ _ => storagesCanonical_register)
        (fun _ hx => hx) b.config (beginBuild b s) hconfig (fun _ hd => nomatch hd) hl
      exact storagesCanonical_append hx (by simpa using hm.canonical hc) rfl
    refine storagesCanonical_append layout (ds := b.spares.map newSpare) (fun d hd => ?_) rfl
    obtain ⟨spec, hspec, rfl⟩ := List.mem_map.1 hd
    exact newSpare_canonical (hspares spec hspec)
  | respond | writeReg | setup | reset | callback | start | stop | wait => exact h

/-- Settles O53: writes and loads that succeed lie inside their Device and keep the canonical form. -/
theorem stepKeepsStorages : Obligations.StepKeepsStorages :=
  fun _ _ hs h => step_keeps (fun _ _ hs => hs) (fun _ _ => WorkerMove.keep_storages)
    (fun _ _ _ => CommandEffect.keep_storages) hs h

end Sys2Proof.Machine
end

section
/-! PROOF. Every step keeps the Routers (spec/10_state.md R22). -/

namespace Sys2Proof.Machine

/-- The Router invariant reads the Devices only for how many there are, so it holds with as many or more. -/
theorem routersSound_devices {s : State} {ds : List Device} (h : s.routersSound) (hl : s.devices.length ≤ ds.length) :
    State.routersSound { s with devices := ds } := by
  obtain ⟨hdisjoint, hmem, hio, hdev, hnodup⟩ := h
  exact ⟨hdisjoint, hmem, hio, fun e he => Nat.lt_of_lt_of_le (hdev e he) hl, hnodup⟩

theorem routersSound_setDevice {s : State} {i : Nat} {d : Device} (h : s.routersSound) :
    (s.setDevice i d).routersSound :=
  routersSound_devices h (by simp)

/-- An entry that no entry of its Router overlaps, of a Device that is in no entry, may be appended (R152). -/
theorem routersSound_addEntry {s : State} {sp : Space} {e : RouterEntry} (h : s.routersSound)
    (hfree : ∀ e' ∈ s.entries sp, e'.disjoint e) (hin : e.inSpace (s.addressWidth sp))
    (hdev : e.dev < s.devices.length) (hnew : e.dev ∉ (s.memEntries ++ s.ioEntries).map RouterEntry.dev) :
    (s.addEntry sp e).routersSound := by
  obtain ⟨⟨hmemDisjoint, hioDisjoint⟩, hmem, hio, hdevs, hnodup⟩ := h
  have appended : ∀ {l l' : List RouterEntry}, l' = l ++ [e] → l.Pairwise RouterEntry.disjoint →
      (∀ e' ∈ l, e'.disjoint e) → l'.Pairwise RouterEntry.disjoint := by
    rintro l _ rfl hl hfree
    exact List.pairwise_append.2 ⟨hl, List.pairwise_singleton _ _, by simpa using hfree⟩
  have devs : ∀ {l : List RouterEntry}, l.Perm (e :: (s.memEntries ++ s.ioEntries)) →
      (∀ e' ∈ l, e'.dev < s.devices.length) ∧ (l.map RouterEntry.dev).Nodup := by
    intro l hl
    refine ⟨fun e' he' => ?_, (hl.map RouterEntry.dev).nodup_iff.2 (List.nodup_cons.2 ⟨hnew, hnodup⟩)⟩
    rcases List.mem_cons.1 (hl.mem_iff.1 he') with rfl | he'
    · exact hdev
    · exact hdevs e' he'
  cases sp with
  | mem =>
    have perm : (s.memEntries ++ [e] ++ s.ioEntries).Perm (e :: (s.memEntries ++ s.ioEntries)) := by
      simp
    exact ⟨⟨appended rfl hmemDisjoint hfree, hioDisjoint⟩,
      fun e' he' => (List.mem_append.1 he').elim (hmem e') fun h => List.mem_singleton.1 h ▸ hin, hio, devs perm⟩
  | io =>
    have perm : (s.memEntries ++ (s.ioEntries ++ [e])).Perm (e :: (s.memEntries ++ s.ioEntries)) := by
      rw [← List.append_assoc]
      exact List.perm_append_singleton _ _
    exact ⟨⟨hmemDisjoint, appended rfl hioDisjoint hfree⟩, hmem,
      fun e' he' => (List.mem_append.1 he').elim (hio e') fun h => List.mem_singleton.1 h ▸ hin, devs perm⟩

/-- A registration that succeeds appends such an entry (R152). -/
theorem routersSound_register {s s' : State} {sp : Space} {dev base size : Nat}
    (hr : register s sp dev base size = .ok s') (h : s.routersSound) : s'.routersSound := by
  obtain ⟨_, hfits, hreg, hfree, d, hd, rfl⟩ := register_ok hr
  have hin : 1 ≤ size ∧ base + size ≤ 2 ^ s.addressWidth sp := by simpa [rangeFits] using hfits
  have hnew : dev ∉ (s.memEntries ++ s.ioEntries).map RouterEntry.dev := by
    simp only [State.isRegistered, Bool.or_eq_false_iff, List.any_eq_false, beq_iff_eq] at hreg
    simp only [List.mem_map, List.mem_append, not_exists, not_and]
    exact fun e he => he.elim (hreg.1 e) (hreg.2 e)
  refine routersSound_setDevice (routersSound_addEntry h (fun e he => ?_) hin (List.getElem?_eq_some_iff.1 hd).1 hnew)
  have := hfree e he
  simp only [RouterEntry.overlaps, Bool.and_eq_false_iff, decide_eq_false_iff_not, Nat.not_lt] at this
  exact this

theorem WorkerMove.keep_routers {s t : State} (hm : WorkerMove s t) (h : s.routersSound) : t.routersSound := by
  cases hm with
  | store => exact routersSound_setDevice h
  | beginFetch | consume | endFetch | decode | writeReg | retire | fault | tick | exit => exact h

/-- The state in which `BUILD` begins has no entry (R250). -/
theorem routersSound_beginBuild (b : BuildArg) (s : State) : (beginBuild b s).routersSound := by
  simp [beginBuild, State.routersSound]

theorem CommandEffect.keep_routers {i : Instr} {s t : State} (he : CommandEffect i s t) (h : s.routersSound) :
    t.routersSound := by
  cases he with
  | store => exact routersSound_setDevice h
  | load => exact routersSound_setDevice h
  | register hr =>
    have kept := routersSound_register hr h
    exact kept
  | @build b s' failed r hb hwf hl =>
    have layout : s'.routersSound :=
      buildLoop_keeps (fun _ _ _ _ _ hx => routersSound_devices hx (by simp))
        (fun _ _ _ _ _ _ => routersSound_register) (fun _ hx => hx) b.config (beginBuild b s)
        (BuildArg.wf_parts hwf).1 (routersSound_beginBuild b s) hl
    have kept := routersSound_devices (ds := s'.devices ++ b.spares.map newSpare) layout (by simp)
    exact kept
  | respond | writeReg | setup | reset | callback | start | stop | wait => exact h

/-- Settles O54: a registration appends an entry the Router has room for, and nothing else touches the entries. -/
theorem stepKeepsRouters : Obligations.StepKeepsRouters :=
  fun _ _ hs h => step_keeps (fun _ _ hs => hs) (fun _ _ => WorkerMove.keep_routers)
    (fun _ _ _ => CommandEffect.keep_routers) hs h

end Sys2Proof.Machine
end

section
/-! PROOF. Every step keeps the registers (spec/10_state.md R24, 42_regfile.md R190 to R193). -/

namespace Sys2Proof.Machine

/-! ### Values of a width -/

theorem and_maskBits_lt (v : Word) (n : Nat) : (v &&& maskBits n).toNat < 2 ^ n := by
  have h : v.toNat &&& (2 ^ n - 1) % 2 ^ 64 ≤ 2 ^ n - 1 := Nat.and_le_right.trans (Nat.mod_le _ _)
  have hp : 0 < 2 ^ n := Nat.two_pow_pos n
  simp only [maskBits, BitVec.toNat_and, BitVec.toNat_ofNat]
  omega

/-- A value cut to a width is a value of that width (R90). -/
theorem sliceData_lt (w : Width) (v : Word) : (sliceData w v).toNat < 2 ^ w.bits := and_maskBits_lt v w.bits

/-- A parent with one half replaced is a value of the parent's width (R192). -/
theorem writePart_lt (p : Part) (w : Width) {parent v : Word} (h : parent.toNat < 2 ^ w.bits) :
    (writePart p w parent v).toNat < 2 ^ w.bits := by
  have half : w.bits / 2 + w.bits / 2 = w.bits := by cases w <;> rfl
  have low : ∀ x : Word, (x &&& maskBits (w.bits / 2)).toNat < 2 ^ w.bits := fun x =>
    (and_maskBits_lt x _).trans_le (Nat.pow_le_pow_right (by decide) (by omega))
  cases p with
  | hi =>
    refine (BitVec.toNat_or _ _).symm ▸ Nat.or_lt_two_pow ?_ (low parent)
    have shifted : (v &&& maskBits (w.bits / 2)).toNat <<< (w.bits / 2) < 2 ^ w.bits := by
      rw [Nat.shiftLeft_eq, ← half, Nat.pow_add]
      simp only [half]
      exact Nat.mul_lt_mul_of_pos_right (and_maskBits_lt v _) (Nat.two_pow_pos _)
    rw [BitVec.toNat_shiftLeft]
    exact (Nat.mod_le _ _).trans_lt shifted
  | lo =>
    refine (BitVec.toNat_or _ _).symm ▸ Nat.or_lt_two_pow ?_ (low v)
    rw [BitVec.toNat_and]
    exact Nat.and_le_left.trans_lt h

/-! ### Register files -/

/-- A register file of distinct names and fitting values: what `State.registersFit` says of the block's. -/
abbrev RegFile.fits (f : RegFile) : Prop :=
  (f.cells.map RegCell.name).Nodup ∧ ∀ c ∈ f.cells, c.val.toNat < 2 ^ c.width.bits ∧ c.reset.toNat < 2 ^ c.width.bits

/-- A value of its width may be put into a storage register. -/
theorem RegFile.fits_setCell {f : RegFile} {r : RegName} {v : Word} {c : RegCell} (h : f.fits)
    (hc : f.cell? r = some c) (hv : v.toNat < 2 ^ c.width.bits) : (f.setCell r v).fits := by
  refine ⟨(setCell_names f r v).symm ▸ h.1, fun x hx => ?_⟩
  obtain ⟨x₀, hx₀, ⟨rfl, rfl⟩ | ⟨_, rfl⟩⟩ := mem_setCell hx
  · have : x₀ = c := Option.some.inj ((cell?_of_mem h.1 hx₀).symm.trans hc)
    exact ⟨this ▸ hv, (h.2 x₀ hx₀).2⟩
  · exact h.2 x hx₀

/-- A value of a register's width may be written to it, whole or half (R192, R193). -/
theorem RegFile.fits_write {f f' : RegFile} {r : RegName} {w : Width} {v : Word} (h : f.fits)
    (hw : f.width? r = some w) (hv : v.toNat < 2 ^ w.bits) (hf : f.write r v = some f') : f'.fits := by
  rcases write_cases hf with ⟨c, hc, rfl⟩ | ⟨_, hr, c, _, hc, rfl⟩
  · obtain rfl : c.width = w := by simpa [RegFile.width?, hc] using hw
    exact RegFile.fits_setCell h hc hv
  · exact RegFile.fits_setCell h hc (writePart_lt _ _ (h.2 c (cell?_some hc).1).1)

/-- The program counter moved on by one stays a value of its width (R28). -/
theorem RegFile.fits_advance {f : RegFile} (h : f.fits) : (f.setPc f.pcPlusOne).fits := by
  cases hc : f.cell? f.pcName with
  | none => rw [setPc_none _ _ hc]; exact h
  | some c =>
    refine RegFile.fits_setCell h hc ?_
    have bits : f.pcBits = c.width.bits := by simp [RegFile.pcBits, hc]
    rw [RegFile.pcPlusOne, bits, BitVec.toNat_ofNat]
    exact (Nat.mod_le _ _).trans_lt (Nat.mod_lt _ (Nat.two_pow_pos _))

/-- Every register has a reset value of its width (R211). -/
theorem RegFile.fits_resetAll {f : RegFile} (h : f.fits) : f.resetAll.fits := by
  refine ⟨by simpa [RegFile.resetAll, Function.comp_def] using h.1, fun c hc => ?_⟩
  obtain ⟨c₀, h₀, rfl⟩ := List.mem_map.1 hc
  exact ⟨(h.2 c₀ h₀).2, (h.2 c₀ h₀).2⟩

/-- The names of the storage registers are among the names the schema declares, in order (R190). -/
theorem ofSpec_names_sublist (spec : RegSpec) :
    ((RegFile.ofSpec spec).cells.map RegCell.name).Sublist (spec.decls.map RegDecl.name) := by
  obtain ⟨decls, pcName⟩ := spec
  simp only [RegFile.ofSpec]
  induction decls with
  | nil => exact .slnil
  | cons d decls ih =>
    cases d with
    | storage n w v => exact ih.cons_cons n
    | half n q p => exact ih.cons n

/-- The register file of a well-formed schema (R190). -/
theorem RegFile.fits_ofSpec {spec : RegSpec} {aw : Nat} (h : spec.wf aw = true) : (RegFile.ofSpec spec).fits := by
  simp only [RegSpec.wf, RegSpec.namesUnique, Bool.and_eq_true, decide_eq_true_eq, List.all_eq_true] at h
  obtain ⟨⟨hnames, hdecls⟩, _⟩ := h
  refine ⟨(ofSpec_names_sublist spec).nodup hnames, fun c hc => ?_⟩
  obtain ⟨d, hd, hmade⟩ := List.mem_filterMap.1 hc
  cases d with
  | storage n w v =>
    cases hmade
    have hv := hdecls _ hd
    simp only [RegDecl.wf, Bool.and_eq_true, decide_eq_true_eq] at hv
    exact ⟨hv.1, hv.1⟩
  | half n q p => cases hmade

/-! ### Steps -/

theorem WorkerMove.keep_registers {s t : State} (hm : WorkerMove s t) (h : s.registersFit) : t.registersFit := by
  cases hm with
  | consume => exact RegFile.fits_advance h
  | writeReg hw hv hf => exact RegFile.fits_write h hw hv hf
  | beginFetch | endFetch | decode | store | retire | fault | tick | exit => exact h

theorem CommandEffect.keep_registers {i : Instr} {s t : State} (he : CommandEffect i s t) (h : s.registersFit) :
    t.registersFit := by
  cases he with
  | writeReg hq hw hf => exact RegFile.fits_write h hw (sliceData_lt _ _) hf
  | reset => exact RegFile.fits_resetAll h
  | build r hb hwf hl => exact RegFile.fits_resetAll (RegFile.fits_ofSpec (BuildArg.wf_parts hwf).2.2)
  | @register sp _ _ _ _ hr =>
    obtain ⟨_, _, _, _, d, _, rfl⟩ := register_ok hr
    cases sp <;> exact h
  | respond | store | load | setup | callback | start | stop | wait => exact h

/-- Settles O55: a register takes values of its width alone, from an instruction, a command, a fetch or a reset. -/
theorem stepKeepsRegisters : Obligations.StepKeepsRegisters :=
  fun _ _ hs h => step_keeps (fun _ _ hs => hs) (fun _ _ => WorkerMove.keep_registers)
    (fun _ _ _ => CommandEffect.keep_registers) hs h

end Sys2Proof.Machine
end

section
/-! PROOF. Every step keeps the halt cause, the fault record and the sequencer consistent (spec/10_state.md R30 to R32,
R41, 43_processor.md R213, R222, R258). -/

namespace Sys2Proof.Machine

/-- The halt of a Processor that is not halted: no cause and no record (R30, R31). -/
theorem haltRecorded_running {s : State} (h : s.haltRecorded) (hp : s.pstate ≠ .halted) :
    s.haltCause = .none ∧ s.fault = none := by
  have hc : s.haltCause = .none := h.1.2 hp
  refine ⟨hc, Option.not_isSome_iff_eq_none.1 fun hf => ?_⟩
  cases hc.symm.trans (h.2.1 hf)

theorem haltRecorded_of_running {s : State} (hp : s.pstate ≠ .halted) (hc : s.haltCause = .none)
    (hf : s.fault = none) : s.haltRecorded := by
  simp [State.haltRecorded, hp, hc, hf]

theorem decodedByTarget_of_none {s : State} (h : s.decoded = none) : s.decodedByTarget := by
  intro d hd
  cases h.symm.trans hd

/-- Between instructions nothing is asked of the worker (R258). -/
theorem sequencerSound_between {s : State} (hrefs : s.setupDone = true → s.memRef = some .mem ∧ s.ioRef = some .io)
    (hdec : s.decodedByTarget) (hf : s.inFlight = false) : s.sequencerSound := by
  refine ⟨hrefs, fun hp => ?_, hdec, fun h => ?_⟩
  · simp [State.inFlight, hp] at hf
  · cases hf.symm.trans h

/-- The end of an instruction records its halt, if it halts, and leaves nothing decoded or in flight (R214). -/
theorem executed_keeps {s : State} (o : ExecOutcome) (stop : Bool) (answers : List CallbackAnswer) (count : Nat)
    (hp : s.pstate = .executing) (hh : s.haltRecorded)
    (hrefs : s.setupDone = true → s.memRef = some .mem ∧ s.ioRef = some .io) :
    (s.executed o stop answers count).haltRecorded ∧ (s.executed o stop answers count).sequencerSound := by
  obtain ⟨hc, hf⟩ := haltRecorded_running hh (by simp [hp])
  refine ⟨?_, sequencerSound_between hrefs (decodedByTarget_of_none rfl) ?_⟩
  · cases o <;> cases stop <;> simp [State.haltRecorded, State.executed, hc, hf]
  · cases o <;> cases stop <;> rfl

theorem WorkerMove.keep_sequencer {s t : State} (hm : WorkerMove s t) (h : s.haltRecorded ∧ s.sequencerSound) :
    t.haltRecorded ∧ t.sequencerSound := by
  obtain ⟨hh, hrefs, hexec, hdec, hactive⟩ := h
  cases hm with
  | beginFetch hp =>
    have hne : s.pstate ≠ .halted := by rcases hp with hp | hp <;> simp [hp]
    obtain ⟨hc, hf⟩ := haltRecorded_running hh hne
    exact ⟨haltRecorded_of_running (fun h => nomatch h) hc hf, sequencerSound_between hrefs hdec rfl⟩
  | endFetch hp ha =>
    obtain ⟨hc, hf⟩ := haltRecorded_running hh (by simp [hp])
    exact ⟨haltRecorded_of_running (fun h => nomatch h) hc hf, hrefs, fun h => (nomatch h), hdec, fun _ => ha⟩
  | decode d hp hd =>
    obtain ⟨hc, hf⟩ := haltRecorded_running hh (by simp [hp])
    exact ⟨haltRecorded_of_running (by simp) hc hf, hrefs, fun _ => rfl,
      fun d' hd' => ⟨s.ibuf, hd'.symm ▸ hd⟩, fun _ => hactive (by simp [State.inFlight, hp])⟩
  | retire o stop answers count hp => exact executed_keeps o stop answers count hp hh hrefs
  | fault c => exact ⟨by simp [State.haltRecorded], sequencerSound_between hrefs hdec rfl⟩
  | exit hf => exact ⟨hh, hrefs, hexec, hdec, fun h => absurd (hf.symm.trans h) (by decide)⟩
  | consume | writeReg | store | tick => exact ⟨hh, hrefs, hexec, hdec, hactive⟩

/-- `RESET` leaves nothing halted, decoded or in flight (R211). -/
theorem resetProcessor_sequencer {s : State} (hrefs : s.setupDone = true → s.memRef = some .mem ∧ s.ioRef = some .io) :
    (resetProcessor s).haltRecorded ∧ (resetProcessor s).sequencerSound :=
  ⟨haltRecorded_of_running (by simp) rfl rfl, sequencerSound_between hrefs (decodedByTarget_of_none rfl) rfl⟩

/-- `BUILD` ends with `SETUP` and `RESET` (R250). -/
theorem finishBuild_sequencer (b : BuildArg) (s : State) :
    (finishBuild b s).haltRecorded ∧ (finishBuild b s).sequencerSound :=
  resetProcessor_sequencer fun _ => ⟨rfl, rfl⟩

theorem CommandEffect.keep_sequencer {i : Instr} {s t : State} (he : CommandEffect i s t)
    (h : s.haltRecorded ∧ s.sequencerSound) : t.haltRecorded ∧ t.sequencerSound := by
  obtain ⟨hh, hrefs, hexec, hdec, hactive⟩ := h
  cases he with
  | setup => exact ⟨hh, fun _ => ⟨rfl, rfl⟩, hexec, hdec, hactive⟩
  | reset => exact resetProcessor_sequencer hrefs
  | @build b s' =>
    have kept := finishBuild_sequencer b s'
    exact kept
  | @register sp _ _ _ _ hr =>
    obtain ⟨_, _, _, _, d, _, rfl⟩ := register_ok hr
    cases sp <;> exact ⟨hh, hrefs, hexec, hdec, hactive⟩
  | start => exact ⟨hh, hrefs, hexec, hdec, fun _ => rfl⟩
  | stop => exact ⟨hh, hrefs, hexec, hdec, fun _ => rfl⟩
  | respond | store | load | writeReg | callback | wait => exact ⟨hh, hrefs, hexec, hdec, hactive⟩

/-- Settles O56: a halt is recorded where it happens, and an instruction in flight has a worker that completes it. -/
theorem stepKeepsTheSequencer : Obligations.StepKeepsTheSequencer :=
  fun _ _ hh hs h => step_keeps (P := fun s => s.haltRecorded ∧ s.sequencerSound) (fun _ _ hs => hs)
    (fun _ _ => WorkerMove.keep_sequencer) (fun _ _ _ => CommandEffect.keep_sequencer) ⟨hh, hs⟩ h

end Sys2Proof.Machine
end

section
/-! PROOF. Devices keep their shape, and a ROM its bytes (spec/10_state.md R20, 40_device.md R121, R138). -/

namespace Sys2Proof.Machine

/-- The Devices of `x` against those of an earlier state `s`: the same number, each of the same shape, and a ReadOnly one
itself where the first `START` was before `s`. No state of a built block returns to `Idle`. -/
structure State.KeepsShape (s x : State) : Prop where
  built : x.built = true
  started : s.lifecycle ≠ .idle → x.lifecycle ≠ .idle
  length : x.devices.length = s.devices.length
  device : ∀ (k : Nat) (d : Device), s.devices[k]? = some d →
    ∃ d', x.devices[k]? = some d' ∧ Device.sameShape d d' ∧ (s.lifecycle ≠ .idle → d.policy = .readOnly → d' = d)

theorem State.KeepsShape.refl {s : State} (hb : s.built = true) : s.KeepsShape s :=
  ⟨hb, id, rfl, fun _ d hd => ⟨d, hd, ⟨rfl, rfl, rfl, rfl⟩, fun _ _ => rfl⟩⟩

/-- A change of other fields. -/
theorem State.KeepsShape.of_devices {s x y : State} (h : s.KeepsShape x) (hb : y.built = true)
    (hl : x.lifecycle ≠ .idle → y.lifecycle ≠ .idle) (hd : y.devices = x.devices) : s.KeepsShape y :=
  ⟨hb, fun hs => hl (h.started hs), hd ▸ h.length, fun k d hk => hd ▸ h.device k d hk⟩

/-- A Device replaced by one of its shape, and after the first `START` not if it is ReadOnly. -/
theorem State.KeepsShape.setDevice {s x : State} (h : s.KeepsShape x) {i : Nat} {d d' : Device}
    (hd : x.devices[i]? = some d) (hshape : Device.sameShape d d')
    (hrom : x.lifecycle ≠ .idle → d.policy ≠ .readOnly) : s.KeepsShape (x.setDevice i d') := by
  refine ⟨h.built, h.started, by simpa using h.length, fun k e hk => ?_⟩
  obtain ⟨e', he', hsame, hconst⟩ := h.device k e hk
  by_cases hik : i = k
  · subst hik
    obtain rfl : d = e' := Option.some.inj (hd.symm.trans he')
    obtain ⟨kind, size, policy, order⟩ := hsame
    obtain ⟨kind', size', policy', order'⟩ := hshape
    refine ⟨d', by simp [(List.getElem?_eq_some_iff.1 hd).1],
      ⟨kind'.trans kind, size'.trans size, policy'.trans policy, order'.trans order⟩, fun hs he => ?_⟩
    exact absurd (policy.trans he) (hrom (h.started hs))
  · exact ⟨e', by simpa [hik] using he', hsame, hconst⟩

/-- A Device write that succeeds is to a ReadWrite Device, and changes its storage alone (R121). -/
theorem State.KeepsShape.write {s x : State} (h : s.KeepsShape x) {dev off : Nat} {d d' : Device} {w : Width} {v : Word}
    (hd : x.devices[dev]? = some d) (hw : d.write off w v = .ok d') : s.KeepsShape (x.setDevice dev d') := by
  obtain ⟨hp, _, rfl⟩ := Device.write_ok hw
  exact h.setDevice hd ⟨rfl, rfl, rfl, rfl⟩ fun _ => by simp [hp]

theorem WorkerMove.keep_shape {s x y : State} (hm : WorkerMove x y) (h : s.KeepsShape x) : s.KeepsShape y := by
  cases hm with
  | store hx hd hw => exact h.write hd hw
  | fault | exit => exact h.of_devices h.built (fun _ => by simp) rfl
  | beginFetch | consume | endFetch | decode | writeReg | retire | tick => exact h.of_devices h.built id rfl

theorem CommandEffect.keep_shape {i : Instr} {s x y : State} (he : CommandEffect i x y) (h : s.KeepsShape x) :
    s.KeepsShape y := by
  cases he with
  | store hq hd hw => exact (h.write hd hw).of_devices h.built id rfl
  | @load dev bytes d d' hl hd hb =>
    have shape : Device.sameShape d { d' with loaded := true } := by
      rcases d.load_cases bytes with ⟨_, hb'⟩ | ⟨_, hb'⟩ <;> rw [hb'] at hb <;> cases hb
      exact ⟨rfl, rfl, rfl, rfl⟩
    exact (h.setDevice hd shape (absurd hl)).of_devices h.built id rfl
  | @register sp dev base size _ hr =>
    obtain ⟨hl, _, _, _, d, hd, rfl⟩ := register_ok hr
    have based : s.KeepsShape (x.setDevice dev { d with base }) := h.setDevice hd ⟨rfl, rfl, rfl, rfl⟩ (absurd hl)
    cases sp <;> exact based.of_devices h.built id rfl
  | build r hb => cases h.built.symm.trans hb
  | start | stop => exact h.of_devices h.built (fun _ => by simp) rfl
  | respond | writeReg | setup | reset | callback | wait => exact h.of_devices h.built id rfl

/-- Settles O58: writes are to ReadWrite Devices, and loads and registrations come before the first `START`. -/
theorem devicesKeepTheirShape : Obligations.DevicesKeepTheirShape := by
  intro s t hb h
  have kept : s.KeepsShape t := step_keeps (fun _ _ hx => hx.of_devices hx.built id rfl)
    (fun _ _ => WorkerMove.keep_shape) (fun _ _ _ => CommandEffect.keep_shape) (.refl hb) h
  exact ⟨kept.length, kept.device⟩

end Sys2Proof.Machine
end

section
/-! PROOF. The dying flag has no influence inside an instruction (spec/10_state.md R35, 44_engine.md R258). -/

namespace Sys2Proof.Machine

/-! ### The functions that run an instruction commute with `setDying` -/

/-- An access with its result mapped. -/
def Access.map {α β : Type} (f : α → β) : Access α → Access β
  | .ok a => .ok (f a)
  | .raise c => .raise c
  | .refuse r => .refuse r

/-- A run of an `Exec` with the state it has reached mapped. -/
def TreeRun.map (f : State → State) : TreeRun → TreeRun
  | .ends s o => .ends (f s) o
  | .raised s c => .raised (f s) c
  | .refused r => .refused r
  | .neverEnds => .neverEnds

/-- A step of the Processor with the state it has reached mapped. -/
def Run.map (f : State → State) : Run → Run
  | .done s => .done (f s)
  | .raised s c => .raised (f s) c
  | .refused r => .refused r
  | .stuck e => .stuck e

theorem route_setDying (s : State) (sp : Space) (a : Nat) (w : Width) : route (setDying s) sp a w = route s sp a w := by
  cases sp <;> rfl

theorem routerRead_setDying (s : State) (sp : Space) (a : Nat) (w : Width) :
    routerRead (setDying s) sp a w = routerRead s sp a w := by
  simp only [routerRead, route_setDying]

theorem routerWrite_setDying (s : State) (sp : Space) (a : Nat) (w : Width) (v : Word) :
    routerWrite (setDying s) sp a w v = (routerWrite s sp a w v).map setDying := by
  simp only [routerWrite, route_setDying]
  cases route s sp a w with
  | ok t => dsimp only; cases t.device.write t.off w v <;> rfl
  | raise c => rfl
  | refuse r => rfl

theorem writeRegisterExact_setDying (s : State) (r : RegName) (v : Word) :
    writeRegisterExact (setDying s) r v = (writeRegisterExact s r v).map setDying := by
  simp only [writeRegisterExact, setDying_regs]
  cases s.regs.width? r with
  | none => rfl
  | some w =>
    dsimp only
    split
    · cases s.regs.write r v <;> rfl
    · rfl

theorem spaceOf_setDying (s : State) (sp : Space) : (setDying s).spaceOf sp = s.spaceOf sp := by
  cases sp <;> rfl

theorem runTree_setDying (t : ExecTree) : ∀ s, runTree t (setDying s) = (runTree t s).map setDying := by
  induction t with
  | ends o => exact fun _ => rfl
  | neverEnds => exact fun _ => rfl
  | readReg r k ih =>
    intro s
    simp only [runTree, setDying_regs]
    cases s.regs.read r with
    | none => rfl
    | some v => exact ih v s
  | writeReg r v k ih =>
    intro s
    simp only [runTree, writeRegisterExact_setDying]
    cases writeRegisterExact s r v with
    | none => rfl
    | some x => exact ih x
  | read sp a w k ih =>
    intro s
    simp only [runTree, spaceOf_setDying, routerRead_setDying]
    cases routerRead s (s.spaceOf sp) a w with
    | ok v => exact ih v s
    | raise c => rfl
    | refuse r => rfl
  | write sp a w v k ih =>
    intro s
    simp only [runTree, spaceOf_setDying, routerWrite_setDying]
    cases routerWrite s (s.spaceOf sp) a w v with
    | ok x => exact ih x
    | raise c => rfl
    | refuse r => rfl

theorem fetchLoop_setDying (n : Nat) : ∀ s, fetchLoop n (setDying s) = (fetchLoop n s).map setDying := by
  induction n with
  | zero => exact fun _ => rfl
  | succ n ih =>
    intro s
    have consume : ∀ b, consumeByte (setDying s) b = setDying (consumeByte s b) := fun _ => rfl
    simp only [fetchLoop, spaceOf_setDying, routerRead_setDying, setDying_regs, consume, setDying_target, setDying_ibuf]
    cases routerRead s (s.spaceOf .mem) s.regs.pc.toNat .w8 with
    | refuse r => rfl
    | raise c => rfl
    | ok v =>
      dsimp only
      cases targetLenStep (consumeByte s (v.setWidth 8)).target (consumeByte s (v.setWidth 8)).ibuf with
      | done => rfl
      | more => exact ih _
      | unknown b => dsimp only; split <;> rfl

theorem fetchRun_setDying (s : State) : fetchRun (setDying s) = (fetchRun s).map setDying := by
  have loop : fetchLoop (targetMaxLen s.target) (beginFetch (setDying s)) =
      (fetchLoop (targetMaxLen s.target) (beginFetch s)).map setDying := fetchLoop_setDying _ (beginFetch s)
  rcases fetchRun_cases s with ⟨hs, h⟩ | ⟨hs, hp, h⟩ | ⟨hs, hp, h⟩ | ⟨hs, hp, h⟩ <;> rw [h]
  · simp [fetchRun, hs, Run.map]
  · simp [fetchRun, hs, hp, Run.map]
  · rcases hp with hp | hp <;> simp [fetchRun, hs, hp, Run.map]
  · rw [← loop]
    rcases hp with hp | hp <;> simp [fetchRun, hs, hp, beginFetch]

theorem decodeRun_setDying (s : State) : decodeRun (setDying s) = (decodeRun s).map setDying := by
  simp only [decodeRun, setDying_pstate, setDying_target, setDying_ibuf]
  cases s.pstate with
  | decoding => dsimp only; cases targetDecode s.target s.ibuf <;> rfl
  | _ => rfl

theorem haltWith_setDying (cause : HaltCause) (s : State) :
    haltWith cause (setDying s) = setDying (haltWith cause s) := by
  unfold haltWith
  by_cases h : s.pstate = .halted
  · rw [if_pos h, if_pos ((setDying_pstate s).trans h)]
  · rw [if_neg h, if_neg (setDying_pstate s ▸ h)]
    rfl

theorem afterExec_setDying (o : ExecOutcome) (s : State) : afterExec o (setDying s) = setDying (afterExec o s) := by
  cases o with
  | cont => rfl
  | halt => exact haltWith_setDying .haltInstruction { s with ibuf := [], decoded := none }

theorem callbackStep_setDying (s : State) : callbackStep (setDying s) = (callbackStep s).map setDying := by
  have consult : ∀ cb, consultCallback cb (setDying s) = ((consultCallback cb s).1, setDying (consultCallback cb s).2) := by
    intro cb
    simp only [consultCallback, setDying_dbgAnswers]
    cases s.dbgAnswers <;> rfl
  simp only [callbackStep, setDying_dbg]
  cases s.dbg with
  | none => rfl
  | some cb =>
    simp only [consult]
    obtain ⟨answer, x⟩ := consultCallback cb s
    cases answer with
    | stops => exact congrArg Run.done (haltWith_setDying .debugRequested x)
    | _ => rfl

theorem finishInstruction_setDying (o : ExecOutcome) (s : State) :
    finishInstruction o (setDying s) = (finishInstruction o s).map setDying := by
  have unfolded : ∀ x, finishInstruction o x = match callbackStep (afterExec o x) with
      | .done y => .done (countInstruction y)
      | .raised y c => .raised y c
      | .refused r => .refused r
      | .stuck e => .stuck e := fun x => by cases o <;> rfl
  rw [unfolded, unfolded, afterExec_setDying, callbackStep_setDying]
  cases callbackStep (afterExec o s) <;> rfl

theorem executeTree_setDying (t : ExecTree) (s : State) :
    executeTree t (setDying s) = (executeTree t s).map setDying := by
  simp only [executeTree, setDying_pstate, runTree_setDying]
  cases s.pstate with
  | executing =>
    dsimp only
    cases runTree t s with
    | ends x o => exact finishInstruction_setDying o x
    | _ => rfl
  | _ => rfl

theorem executeDecoded_setDying (s : State) : executeDecoded (setDying s) = (executeDecoded s).map setDying := by
  simp only [executeDecoded, setDying_pstate, setDying_decoded]
  cases s.pstate with
  | executing =>
    dsimp only
    cases s.decoded with
    | none => rfl
    | some d => exact executeTree_setDying (targetExec d) s
  | _ => rfl

theorem execRun_setDying (s : State) : execRun (setDying s) = (execRun s).map setDying := by
  simp only [execRun, setDying_pstate, decodeRun_setDying]
  split
  · cases decodeRun s with
    | done x => exact executeDecoded_setDying x
    | _ => rfl
  · exact executeDecoded_setDying s

/-- The fault halt keeps the flag (R294). -/
theorem workerOutcome_setDying {r r' : Run} (h : r' = r.map setDying) :
    workerOutcome r' = mapNext setDying (workerOutcome r) := by
  subst h
  cases r <;> rfl

/-- Settles O50: each part of an instruction commutes with the setting of the flag. -/
theorem instructionsIgnoreTheDyingFlag : Obligations.InstructionsIgnoreTheDyingFlag := by
  rintro s i (rfl | rfl | rfl | ⟨imm, rfl⟩ | rfl)
  · exact workerOutcome_setDying (fetchRun_setDying s)
  · exact workerOutcome_setDying (decodeRun_setDying s)
  · exact workerOutcome_setDying (execRun_setDying s)
  · exact workerOutcome_setDying (executeTree_setDying (ldiATree imm) s)
  · exact workerOutcome_setDying (executeTree_setDying hltTree s)

end Sys2Proof.Machine
end

section
/-! SUPPORT. The accesses that go through: an access of a Router or of a Device whose span fits, as an equation
(spec/40_device.md R120, R121, 41_router.md R151). -/

namespace Sys2Proof.Machine

variable {s : State} {sp : Space} {a off : Nat} {w : Width} {v : Word} {e : RouterEntry} {d : Device}

/-- A read inside a Device (R120, R61). -/
theorem Device.read_eq_ok (hd : off + w.bytes ≤ d.size) :
    d.read off w = .ok (BitVec.ofNat 64 (accessValue d.order w.bytes fun i => d.storage.read (off + i))) := by
  rw [Device.read_eq, if_neg (Nat.not_lt.2 hd)]

/-- A write inside a ReadWrite Device (R121). -/
theorem Device.write_eq_ok (hp : d.policy = .readWrite) (hd : off + w.bytes ≤ d.size) :
    d.write off w v = .ok { d with storage := d.storage.writeSpan off (bytesOfValue d.order w.bytes v) } := by
  rw [Device.write, if_neg (by simp [hp]), if_neg (Nat.not_lt.2 hd)]

/-- A read through a Router is the read of the Device that the address is routed to (R151). -/
theorem routerRead_of_route {r : Routed} (hr : route s sp a w = .ok r) (hd : r.device.read r.off w = .ok v) :
    routerRead s sp a w = .ok v := by
  simp only [routerRead, hr, hd]

/-- A write through a Router is the write of the Device that the address is routed to (R151). -/
theorem routerWrite_of_route {r : Routed} (hr : route s sp a w = .ok r) (hd : r.device.write r.off w v = .ok d) :
    routerWrite s sp a w v = .ok (s.setDevice r.dev d) := by
  simp only [routerWrite, hr, hd]

/-- The storage after the write of an access, byte by byte: each byte of the span is its byte of the value (R61). -/
theorem Memory.read_writeSpan_bytesOfValue {m : Memory} (hm : m.wf) (order : ByteOrder) (j : Nat) :
    (m.writeSpan off (bytesOfValue order w.bytes (lowBits w v))).read j =
      if off ≤ j ∧ j < off + w.bytes then accessByte order w.bytes (j - off) v else m.read j := by
  rw [Memory.read_writeSpan hm, bytesOfValue_length]
  split
  · next hj => exact bytesOfValue_getD order w v (j - off) (by omega)
  · rfl

end Sys2Proof.Machine
end

section
/-! PROOF. The reads and writes of a Router (spec/20_memory.md R61, 41_router.md R151 to R169). -/

namespace Sys2Proof.Machine

/-- Settles O10: the address is routed to the Device of its entry, and the Device answers with the sum of R61. -/
theorem routerReadReturnsTheBytes : Obligations.RouterReadReturnsTheBytes := by
  intro s sp w a e d hq ha he hs hd hsize
  rw [exec_routerRead, whenQuiet_quiet hq, routerRead_of_route (route_eq_ok ha he hs hd) (Device.read_eq_ok hsize)]
  rfl

/-- Settles O11: the storage after the write is the old one with the bytes of the value written over the span. -/
theorem routerWriteStoresTheBytes : Obligations.RouterWriteStoresTheBytes := by
  intro s sp w a v e d hq ha he hs hd hp hsize hm
  refine ⟨d.storage.writeSpan (a - e.base) (bytesOfValue d.order w.bytes (lowBits w v)), ?outcome,
    Memory.read_writeSpan_bytesOfValue hm d.order⟩
  case outcome =>
    rw [exec_routerWrite, whenQuiet_quiet hq,
      routerWrite_of_route (route_eq_ok ha he hs hd) (Device.write_eq_ok hp hsize)]
    rfl

end Sys2Proof.Machine
end

section
/-! PROOF. The operations that read change the response alone (spec/20_memory.md R67). -/

namespace Sys2Proof.Machine

/-- State with another response standing at the command port (R90). -/
def State.withResponse (s : State) (r : Response) : State := { s with response := r }

/-- An instruction that reads only: what it changes is the response, and what it does is the same whatever response
stood there before. -/
structure ReadsOnly (i : Instr) : Prop where
  frame : ∀ {s t : State}, exec i s = .next t → t = s.withResponse t.response
  blind : ∀ (s : State) (r : Response), exec i (s.withResponse r) = exec i s

/-- An instruction that reads only answers the same when it is asked again. -/
theorem ReadsOnly.repeats {i : Instr} (hi : ReadsOnly i) {s t : State} (h : exec i s = .next t) :
    exec i t = .next t :=
  calc exec i t = exec i (s.withResponse t.response) := congrArg (exec i) (hi.frame h)
    _ = exec i s := hi.blind s t.response
    _ = .next t := h

/-- A read command that goes on leaves its answer or its condition in the response, and nothing else. -/
theorem readCommand_frame {s t : State} {w : Width} {x : Access Word}
    (h : whenQuiet s (answerRead s w x) = .next t) : t = s.withResponse t.response := by
  rcases answerRead_next (whenQuiet_next h).2 with ⟨v, _, rfl⟩ | ⟨c, _, rfl⟩ <;> rfl

/-- A command that only gives an answer leaves it in the response, and nothing else. -/
theorem answerCommand_frame {s t : State} {v : RespValue} (h : whenQuiet s (.next (s.answer v)) = .next t) :
    t = s.withResponse t.response := by
  cases (whenQuiet_next h).2
  rfl

theorem readsOnly_routerRead (sp : Space) (w : Width) (a : Nat) : ReadsOnly (.routerRead sp w a) where
  frame h := readCommand_frame ((exec_routerRead sp w a _).symm.trans h)
  blind s r := by rw [exec_routerRead, exec_routerRead]; rfl

theorem readsOnly_deviceRead (sp : Space) (w : Width) (dev off : Nat) : ReadsOnly (.deviceRead sp w dev off) where
  frame h := readCommand_frame ((exec_deviceRead sp w dev off _).symm.trans h)
  blind s r := by rw [exec_deviceRead, exec_deviceRead]; rfl

theorem readsOnly_rdreg (name : RegName) : ReadsOnly (.rdreg name) where
  frame h := by
    obtain ⟨_, h⟩ := whenQuiet_next h
    split at h <;> cases h <;> rfl
  blind _ _ := rfl

theorem readsOnly_getregs : ReadsOnly .getregs where
  frame h := answerCommand_frame h
  blind _ _ := rfl

theorem readsOnly_printregs (stream : Nat) : ReadsOnly (.printregs stream) where
  frame h := answerCommand_frame h
  blind _ _ := rfl

theorem readsOnly_asm (text : Text) : ReadsOnly (.asm text) where
  frame {s t} (h : execAsm text s = .next t) := by
    unfold execAsm at h
    split at h <;> cases h <;> rfl
  blind _ _ := rfl

theorem readsOnly_disasm (bytes : List Byte) : ReadsOnly (.disasm bytes) where
  frame {s t} (h : execDisasm bytes s = .next t) := by
    unfold execDisasm at h
    split at h <;> cases h <;> rfl
  blind _ _ := rfl

/-- Settles O22: each of these operations reads only. -/
theorem readsChangeTheResponseOnly : Obligations.ReadsChangeTheResponseOnly := by
  intro s t i hi h
  have reads : ReadsOnly i := by
    rcases hi with ⟨sp, w, a, rfl⟩ | ⟨sp, w, dev, off, rfl⟩ | ⟨name, rfl⟩ | rfl | ⟨stream, rfl⟩ |
      ⟨text, rfl⟩ | ⟨bytes, rfl⟩
    · exact readsOnly_routerRead sp w a
    · exact readsOnly_deviceRead sp w dev off
    · exact readsOnly_rdreg name
    · exact readsOnly_getregs
    · exact readsOnly_printregs stream
    · exact readsOnly_asm text
    · exact readsOnly_disasm bytes
  exact ⟨reads.frame h, reads.repeats h⟩

end Sys2Proof.Machine
end

section
/-! PROOF. The state after reset (spec/10_state.md R70, 44_engine.md R250, R321, notes/assumptions/1.md). -/

namespace Sys2Proof.Machine

/-- `BUILD` of `CFG_ILL` (R70) on the block that is not built yet, run. -/
theorem exec_build_cfgIll : exec (.build Config.cfgIll) { State.reset with built := false } = .next State.reset := by
  rfl

/-- The state after reset is sound: the Devices, the two entries and the registers are looked at one by one. -/
theorem reset_inv : State.reset.Inv where
  storages := by
    have inside : ∀ d ∈ State.reset.devices, ∀ c ∈ d.storage.cells, c.1 < d.size := by decide
    exact fun d hd => ⟨reset_storages_wf d hd, inside d hd⟩
  policies := by decide
  routers := by decide
  registers := by decide
  halt := by decide
  engine := by decide
  sequencer := ⟨by decide, by decide, decodedByTarget_of_none rfl, by decide⟩

/-- Settles O59: `BUILD` run, and the invariant part by part. -/
theorem resetIsSoundAndBuilt : Obligations.ResetIsSoundAndBuilt := ⟨exec_build_cfgIll, reset_inv⟩

end Sys2Proof.Machine
end

section
/-! SUPPORT. The encoder and the decoder, family by family: what an encoding decodes to, and which codes are accepted
and which are reserved (spec/30_encoding.md R91 to R96). -/

namespace Sys2Proof.Machine

open Sys2Proof.Laws

variable {c : Command} {i : Instr} {e : DecodeError}

/-! ### The code of an access command and its fields (R91) -/

theorem exists_spaceOfBit (sp : Space) : ∃ n < 2, spaceOfBit n = sp := by
  cases sp
  · exact ⟨0, by omega, rfl⟩
  · exact ⟨1, by omega, rfl⟩

theorem widthOfCode_code (w : Width) : widthOfCode w.code = w := by
  cases w <;> rfl

theorem code_lt (w : Width) : w.code < 4 := by
  cases w <;> decide

theorem toNat_accessOp {level n dir k : Nat} (hl : level < 2) (hn : n < 2) (hd : dir < 2) (hk : k < 4) :
    (accessOp level (spaceOfBit n) dir (widthOfCode k)).toNat = 32 * level + 16 * n + 4 * dir + k := by
  have space : accessOp level (spaceOfBit n) dir (widthOfCode k) =
      BitVec.ofNat 8 (32 * level + 16 * n + 4 * dir + (widthOfCode k).code) := by
    interval_cases n <;> rfl
  have width : (widthOfCode k).code = k := by
    interval_cases k <;> rfl
  rw [space, width, BitVec.toNat_ofNat]
  omega

/-- The fields of an access code are the ones it is made of, `op[7:6]` and `op[3]` being 0. -/
theorem fields_accessOp (sp : Space) (w : Width) {level dir : Nat} (hl : level < 2) (hd : dir < 2) :
    opUnit (accessOp level sp dir w) = 0 ∧ opBit3 (accessOp level sp dir w) = 0 ∧
      opLevel (accessOp level sp dir w) = level ∧ spaceOfBit (opSpace (accessOp level sp dir w)) = sp ∧
      opDir (accessOp level sp dir w) = dir ∧ widthOfCode (opWidthCode (accessOp level sp dir w)) = w := by
  obtain ⟨n, hn, rfl⟩ := exists_spaceOfBit sp
  have hop := toNat_accessOp hl hn hd (code_lt w)
  rw [widthOfCode_code] at hop
  have space : opSpace (accessOp level (spaceOfBit n) dir w) = n := by rw [opSpace, hop]; have := code_lt w; omega
  have width : opWidthCode (accessOp level (spaceOfBit n) dir w) = w.code := by
    rw [opWidthCode, hop]; have := code_lt w; omega
  rw [space, width, widthOfCode_code, opUnit, opBit3, opLevel, opDir, hop]
  have := code_lt w
  refine ⟨?_, ?_, ?_, rfl, ?_, rfl⟩ <;> omega

/-- An access code is made of its fields. -/
theorem accessOp_fields {op : Byte} (hu : opUnit op = 0) (h3 : opBit3 op ≠ 1) :
    accessOp (opLevel op) (spaceOfBit (opSpace op)) (opDir op) (widthOfCode (opWidthCode op)) = op := by
  refine BitVec.eq_of_toNat_eq ((toNat_accessOp ?_ ?_ ?_ ?_).trans ?_) <;>
    simp only [opUnit, opBit3, opLevel, opSpace, opDir, opWidthCode] at * <;> omega

/-! ### The access commands (R92) -/

theorem decode_readCommand (sp : Space) (w : Width) (a : Nat) :
    decode (readCommand sp w a) = .ok (.routerRead sp w a) := by
  simp [decode, readCommand, decodeCommand, decodeAccess, fields_accessOp]

theorem decode_writeCommand (sp : Space) (w : Width) (a : Nat) (v : Word) :
    decode (writeCommand sp w a v) = .ok (.routerWrite sp w a v) := by
  simp [decode, writeCommand, decodeCommand, decodeAccess, fields_accessOp]

theorem decode_devReadCommand (sp : Space) (w : Width) (dev off : Nat) :
    decode (devReadCommand sp w dev off) = .ok (.deviceRead sp w dev off) := by
  simp [decode, devReadCommand, decodeCommand, decodeAccess, fields_accessOp]

theorem decode_devWriteCommand (sp : Space) (w : Width) (dev off : Nat) (v : Word) :
    decode (devWriteCommand sp w dev off v) = .ok (.deviceWrite sp w dev off v) := by
  simp [decode, devWriteCommand, decodeCommand, decodeAccess, fields_accessOp]

/-- The operand of a narrow write survives its passage through the 64 bits of `data` (R90). -/
theorem setWidth_data {n : Nat} (hn : n ≤ 64) (v : BitVec n) : (v.setWidth 64).setWidth n = v := by
  rw [BitVec.setWidth_setWidth_of_le v hn, BitVec.setWidth_eq]

/-- The access an accepted access command names, by the level and the direction of its code. -/
theorem decodeAccess_ok (h : decodeAccess c = .ok i) :
    opBit3 c.op ≠ 1 ∧ ∃ sp w, sp = spaceOfBit (opSpace c.op) ∧ w = widthOfCode (opWidthCode c.op) ∧
      (opLevel c.op = 0 ∧ opDir c.op = 0 ∧ i = .routerRead sp w c.addr ∨
        opLevel c.op = 0 ∧ opDir c.op = 1 ∧ i = .routerWrite sp w c.addr c.data ∨
        opLevel c.op = 1 ∧ opDir c.op = 0 ∧ i = .deviceRead sp w c.dev c.addr ∨
        opLevel c.op = 1 ∧ opDir c.op = 1 ∧ i = .deviceWrite sp w c.dev c.addr c.data) := by
  have hlevel : opLevel c.op = 0 ∨ opLevel c.op = 1 := Nat.mod_two_eq_zero_or_one _
  have hdir : opDir c.op = 0 ∨ opDir c.op = 1 := Nat.mod_two_eq_zero_or_one _
  unfold decodeAccess at h
  split at h
  · cases h
  · next h3 =>
    refine ⟨h3, _, _, rfl, rfl, ?_⟩
    rcases hlevel with hl | hl <;> rcases hdir with hd | hd
    all_goals simp only [hl, hd] at h; cases h; simp [hl, hd]

/-! ### The code of an accepted command -/

/-- An instruction that is not one of the stream is encoded as a command of its row's code (R92, R93). -/
theorem encode_eq_port (h : decodedOf i = none) : ∃ c', encode i = .port c' ∧ c'.op = tableCode i := by
  cases i with
  | ldiA | hlt => cases h
  | _ => exact ⟨_, rfl, rfl⟩

theorem tableCode_routerRead (sp : Space) (w : Width) (a : Nat) :
    tableCode (.routerRead sp w a) = accessOp 0 sp 0 w := by
  cases sp <;> cases w <;> rfl

theorem tableCode_routerWrite (sp : Space) (w : Width) (a : Nat) (v : Word) :
    tableCode (.routerWrite sp w a v) = accessOp 0 sp 1 w := by
  cases sp <;> cases w <;> rfl

theorem tableCode_deviceRead (sp : Space) (w : Width) (dev off : Nat) :
    tableCode (.deviceRead sp w dev off) = accessOp 1 sp 0 w := by
  cases sp <;> cases w <;> rfl

theorem tableCode_deviceWrite (sp : Space) (w : Width) (dev off : Nat) (v : Word) :
    tableCode (.deviceWrite sp w dev off v) = accessOp 1 sp 1 w := by
  cases sp <;> cases w <;> rfl

/-- An accepted access command has the code of the instruction it names (R92). -/
theorem tableCode_of_decodeAccess (hu : opUnit c.op = 0) (h : decodeAccess c = .ok i) : tableCode i = c.op := by
  obtain ⟨h3, _, _, rfl, rfl, hi⟩ := decodeAccess_ok h
  have fields := accessOp_fields hu h3
  rcases hi with ⟨hl, hd, rfl⟩ | ⟨hl, hd, rfl⟩ | ⟨hl, hd, rfl⟩ | ⟨hl, hd, rfl⟩ <;> rw [hl, hd] at fields
  · exact (tableCode_routerRead _ _ _).trans fields
  · exact (tableCode_routerWrite _ _ _ _).trans fields
  · exact (tableCode_deviceRead _ _ _ _).trans fields
  · exact (tableCode_deviceWrite _ _ _ _ _).trans fields

/-- An accepted command of R93 has the code of the instruction it names. -/
theorem tableCode_of_decodeNamed (h : decodeNamed c = .ok i) : tableCode i = c.op := by
  unfold decodeNamed at h
  -- `h_24` is the arm of all codes that stand in no other arm.
  split at h
  case h_24 => split at h <;> cases h
  all_goals cases h; exact (BitVec.eq_of_toNat_eq ‹c.op.toNat = _›).symm

theorem tableCode_of_decodeCommand (h : decodeCommand c = .ok i) : tableCode i = c.op := by
  unfold decodeCommand at h
  split at h
  · next hu => exact tableCode_of_decodeAccess hu h
  · exact tableCode_of_decodeNamed h

/-- Only `BUILD` has `BUILD`'s code (R93). -/
theorem build_of_tableCode (h : tableCode i = 0xD0) : ∃ b, i = .build b := by
  cases i with
  | build b => exact ⟨b, rfl⟩
  | _ => simp [tableCode] at h

/-! ### The listed and the reserved codes (R94) -/

/-- Every instruction of the port has a listed code. -/
theorem tableCode_listed (h : decodedOf i = none) : tableCode i ∈ listedCodes := by
  cases i with
  | ldiA | hlt => cases h
  | _ => simp [tableCode, listedCodes]

theorem op_listed_of_toNat {op : Byte} {l : List Nat} (h : op.toNat ∈ l)
    (hl : ∀ n ∈ l, BitVec.ofNat 8 n ∈ listedCodes) : op ∈ listedCodes := by
  simpa using hl _ h

theorem decodeAccess_error (h : decodeAccess c = .error e) : e = .reservedOp c.op := by
  unfold decodeAccess at h
  split at h
  · cases h; rfl
  · split at h <;> cases h

/-- A command of R93 is rejected for its code, or has a listed code and an operand of another kind. -/
theorem decodeNamed_error (h : decodeNamed c = .error e) : e = .reservedOp c.op ∨ c.op ∈ listedCodes := by
  unfold decodeNamed at h
  split at h
  case h_24 =>
    split at h
    · next hop => exact Or.inr (op_listed_of_toNat hop (by decide))
    · cases h; exact Or.inl rfl
  all_goals cases h

/-- A command of a reserved code is rejected by name (R94). -/
theorem decodeCommand_reserved (h : c.op ∉ listedCodes) : decodeCommand c = .error (.reservedOp c.op) := by
  cases hd : decodeCommand c with
  | ok i => exact absurd (tableCode_of_decodeCommand hd ▸ tableCode_listed (decodedOf_of_decodeCommand hd)) h
  | error e =>
    unfold decodeCommand at hd
    split at hd
    · rw [decodeAccess_error hd]
    · rw [(decodeNamed_error hd).resolve_right h]

/-! ### The stream (R96) -/

/-- A byte list is accepted only as the encoding of `LDI A` or of `HLT`, whose opcode byte it begins with. -/
theorem decodeStream_ok {bytes : List Byte} (h : decodeStream bytes = .ok i) : encode i = .stream bytes := by
  unfold decodeStream at h
  split at h
  · cases h
  · split at h
    · next hb => split at h <;> cases h; rw [hb]; rfl
    · split at h
      · next hb => split at h <;> cases h; rw [hb]; rfl
      · cases h

end Sys2Proof.Machine
end

section
/-! PROOF. The encoder and the decoder (spec/30_encoding.md R91 to R96). -/

namespace Sys2Proof.Machine

/-- Settles O1: an access by its family, a narrow write with its operand carried through `data`, every other operation
by its own arm of the decoder. -/
theorem decodeEncodeAgree : Obligations.DecodeEncodeAgree := by
  intro i
  cases i with
  | fetch8 | fetch16 | fetch32 | fetch64 | in8 | in16 | in32 | in64 => exact decode_readCommand _ _ _
  | dfetch8 | dfetch16 | dfetch32 | dfetch64 | din8 | din16 | din32 | din64 => exact decode_devReadCommand _ _ _ _
  | store64 | out64 => exact decode_writeCommand _ _ _ _
  | dstore64 | dout64 => exact decode_devWriteCommand _ _ _ _ _
  | store8 | store16 | store32 | out8 | out16 | out32 =>
    refine (decode_writeCommand _ _ _ _).trans ?_
    simp only [Instr.routerWrite]
    rw [setWidth_data (by omega)]
  | dstore8 | dstore16 | dstore32 | dout8 | dout16 | dout32 =>
    refine (decode_devWriteCommand _ _ _ _ _).trans ?_
    simp only [Instr.deviceWrite]
    rw [setWidth_data (by omega)]
  | ldiA | hlt => rfl
  | _ => simp [decode, encode, argCommand, decodeCommand, opUnit, decodeNamed]

/-- Settles O2: an accepted command has the code of its instruction's row, with which the encoding begins; the byte
lists accepted are the two forms of `ILL2`. -/
theorem acceptedEncodingsAreTheirOwn : Obligations.AcceptedEncodingsAreTheirOwn := by
  refine ⟨fun c i h => ?_, fun bytes i => ⟨decodeStream_ok, fun h => ?_⟩⟩
  · obtain ⟨c', hc, hop⟩ := encode_eq_port (decodedOf_of_decodeCommand h)
    exact ⟨c', hc, hop.trans (tableCode_of_decodeCommand h)⟩
  · have agree := decodeEncodeAgree i
    rwa [h] at agree

/-- Settles O4: each word is the encoding of its instruction. -/
theorem decodedWords : Obligations.DecodedWords :=
  ⟨decodeEncodeAgree (.store16 0x0FFE 0x1234), decodeEncodeAgree (.in64 0x20), decodeEncodeAgree (.dstore16 1 3 0x1234),
    decodeEncodeAgree (.din32 1 3), decodeEncodeAgree (.regio 2 0x10 4), decodeEncodeAgree (.wrreg .wl 0xFF),
    decodeEncodeAgree .reset, decodeEncodeAgree .stop, decodeEncodeAgree (.ldiA 0x05), decodeEncodeAgree .hlt⟩

/-- Settles O5: `LenStep` of `ILL2` at each list that `FETCHI` asks about. -/
theorem lenStepOfIll2 : Obligations.LenStepOfIll2 := by
  refine ⟨rfl, rfl, fun b => rfl, rfl, fun b hLdi hHlt => ?_⟩
  show ill2LenStep [b] = .unknown b
  rw [ill2LenStep, if_neg hLdi, if_neg hHlt]

/-- Settles O52: the code of each condition, and that of none. -/
theorem conditionCodes : Obligations.ConditionCodes := by
  intro a n l p r r' w b t t' v
  exact ⟨rfl, rfl, rfl, rfl, rfl, rfl, rfl, rfl⟩

end Sys2Proof.Machine
end

section
/-! SUPPORT. The turns that are refused (spec/30_encoding.md R94, 60_exceptions.md R299, notes/assumptions/6.md,
10.md). -/

namespace Sys2Proof.Machine

variable {s : State} {c : Command} {i : Instr} {e : DecodeError} {r : Refusal}

theorem step_of_refuse (h : nextTurn s = .refuse r) : step s = .refused r := by
  simp only [step, h]

theorem controllerTurn_error (hd : decodeCommand c = .error e) : controllerTurn c s = .refuse (refusalOf c.op e) := by
  simp only [controllerTurn, hd]

theorem workerTurn_error (hd : decodeCommand c = .error e) : workerTurn c s = .refuse (refusalOf c.op e) := by
  simp only [workerTurn, hd]

theorem controllerTurn_workerOnly (hd : decodeCommand c = .ok i) (hw : workerOnly i = true) :
    controllerTurn c s = .refuse .workerOnly := by
  simp only [controllerTurn, hd, hw, if_true]

/-- Of the commands of the controller only `BUILD` is one of the block that is not built (R299). -/
theorem controllerTurn_notBuilt (hd : decodeCommand c = .ok i) (hw : workerOnly i = false) (hb : s.built = false)
    (hi : ∀ b, i ≠ .build b) : controllerTurn c s = .refuse .notBuilt := by
  have other : isBuildOp c.op = false := by
    refine beq_eq_false_iff_ne.2 fun hop => ?_
    obtain ⟨b, hbuild⟩ := build_of_tableCode ((tableCode_of_decodeCommand hd).trans hop)
    exact hi b hbuild
  simp only [controllerTurn, hd, hw, hb, other, Bool.false_eq_true, if_false, Bool.not_false, Bool.and_true, if_true]

theorem workerTurn_neverWorker (hd : decodeCommand c = .ok i) (hw : workerOnly i = false) :
    workerTurn c s = .refuse .neverWorker := by
  simp only [workerTurn, hd, hw, Bool.not_false, if_true]

theorem workerTurn_noWorker (hd : decodeCommand c = .ok i) (hw : workerOnly i = true) (ha : s.active = false) :
    workerTurn c s = .refuse .noWorker := by
  simp only [workerTurn, hd, hw, ha, Bool.not_true, Bool.false_eq_true, if_false]

end Sys2Proof.Machine
end

section
/-! PROOF. Which commands are refused (spec/30_encoding.md R93, R94, 60_exceptions.md R299). -/

namespace Sys2Proof.Machine

/-- Settles O3: the decoder rejects the code, whichever agent's turn it is. -/
theorem reservedCodesAreRefused : Obligations.ReservedCodesAreRefused := by
  intro s agent c rest hp hb hop
  have reserved := decodeCommand_reserved hop
  cases agent with
  | controller => exact step_of_refuse ((nextTurn_controller hp (hb rfl)).trans (controllerTurn_error reserved))
  | worker => exact step_of_refuse ((nextTurn_worker hp).trans (workerTurn_error reserved))

/-- Settles O8: each clause is one refused turn of its agent. -/
theorem agentsIssueTheirOwnOperations : Obligations.AgentsIssueTheirOwnOperations := by
  intro s c rest i hd
  exact ⟨fun hp hb hw => step_of_refuse ((nextTurn_controller hp hb).trans (controllerTurn_workerOnly hd hw)),
    fun hp hb hw hbuilt hi =>
      step_of_refuse ((nextTurn_controller hp hb).trans (controllerTurn_notBuilt hd hw hbuilt hi)),
    fun hp hw => step_of_refuse ((nextTurn_worker hp).trans (workerTurn_neverWorker hd hw)),
    fun hp hw ha => step_of_refuse ((nextTurn_worker hp).trans (workerTurn_noWorker hd hw ha))⟩

end Sys2Proof.Machine
end

section
/-! SUPPORT. How `FETCHI` begins, and how a read that raises ends its loop (spec/43_processor.md R212, R226). -/

namespace Sys2Proof.Machine

variable {s : State}

theorem spaceOf_consumed (hm : s.memRef = some .mem) (bytes : List Byte) (p : PState) :
    (s.consumed bytes p).spaceOf .mem = .mem := by
  simp [State.spaceOf, State.consumed, hm]

theorem exec_fetchi (s : State) : exec .fetchi s = workerOutcome (fetchRun s) := rfl

/-- Without `SETUP`, and with an instruction fetched that has not ended, `FETCHI` is refused (R210, R212). -/
theorem exec_fetchi_refused (h : s.setupDone = false ∨ s.pstate = .decoding ∨ s.pstate = .executing) :
    ∃ r, exec .fetchi s = .refused r := by
  rw [exec_fetchi]
  rcases fetchRun_cases s with ⟨_, hr⟩ | ⟨hs, hp, _⟩ | ⟨_, _, hr⟩ | ⟨hs, hp, _⟩
  · exact ⟨_, by rw [hr]; rfl⟩
  · simp [hs, hp] at h
  · exact ⟨_, by rw [hr]; rfl⟩
  · rcases hp with hp | hp <;> simp [hs, hp] at h

/-- A Processor that can fetch begins its loop with no byte consumed. -/
theorem fetchRun_canFetch (h : s.canFetch) (hr : s.registersFit) :
    fetchRun s = fetchLoop (targetMaxLen s.target) (s.consumed [] .fetching) := by
  obtain ⟨hs, hp, _⟩ := h
  rcases fetchRun_cases s with ⟨h, _⟩ | ⟨_, h, _⟩ | ⟨_, h, _⟩ | ⟨_, _, h⟩
  · cases hs.symm.trans h
  · simp [h] at hp
  · rcases h with h | h <;> simp [h] at hp
  · rw [h, consumed_nil s hr]
    rfl

/-- The loop goes on over a byte after which `LenStep` is `More`. -/
theorem fetchLoop_more (hm : s.memRef = some .mem) {bytes : List Byte} {b : Byte} (n : Nat)
    (hread : routerRead s .mem (s.fetchAddress bytes.length) .w8 = .ok (b.setWidth 64))
    (hmore : targetLenStep s.target (bytes ++ [b]) = .more) :
    fetchLoop (n + 1) (s.consumed bytes .fetching) = fetchLoop n (s.consumed (bytes ++ [b]) .fetching) := by
  have answer : targetLenStep (s.consumed (bytes ++ [b]) .fetching).target (s.consumed (bytes ++ [b]) .fetching).ibuf =
      .more := hmore
  conv_lhs => unfold fetchLoop
  rw [spaceOf_consumed hm, consumed_pc, routerRead_consumed, hread]
  simp only [setWidth_data (n := 8) (by omega), consumeByte_consumed, answer]

/-- The loop ends where the next read raises, with the bytes read so far consumed. -/
theorem fetchLoop_raise (hm : s.memRef = some .mem) {bytes : List Byte} {c : Condition} (n : Nat)
    (hread : routerRead s .mem (s.fetchAddress bytes.length) .w8 = .raise c) :
    fetchLoop (n + 1) (s.consumed bytes .fetching) = .raised (s.consumed bytes .fetching) c := by
  unfold fetchLoop
  rw [spaceOf_consumed hm, consumed_pc, routerRead_consumed, hread]

/-- The loop over bytes after each of which `LenStep` is `More`, and then a read that raises. -/
theorem fetchLoop_bytes_raise (hm : s.memRef = some .mem) {bytes : List Byte} {c : Condition} (hh : s.holdsAtPc bytes)
    (hmore : ∀ k, 0 < k → k ≤ bytes.length → targetLenStep s.target (bytes.take k) = .more)
    (hread : routerRead s .mem (s.fetchAddress bytes.length) .w8 = .raise c) (n : Nat) :
    ∀ k, k ≤ bytes.length → bytes.length < k + n →
      fetchLoop n (s.consumed (bytes.take k) .fetching) = .raised (s.consumed bytes .fetching) c := by
  induction n with
  | zero => intro k h1 h2; omega
  | succ n ih =>
    intro k h1 h2
    by_cases hk : k < bytes.length
    · have htake : bytes.take k ++ [bytes[k]] = bytes.take (k + 1) := by simp
      have hlen : (bytes.take k).length = k := by simp; omega
      have advance := fetchLoop_more (bytes := bytes.take k) (b := bytes[k]) hm n
        (by rw [hlen]; exact hh k _ (List.getElem?_eq_getElem hk)) (by rw [htake]; exact hmore _ (by omega) hk)
      rw [advance, htake]
      exact ih (k + 1) hk (by omega)
    · rw [List.take_of_length_le (by omega)]
      exact fetchLoop_raise hm n hread

end Sys2Proof.Machine
end

section
/-! PROOF. `FETCHI` that raises or is refused (spec/30_encoding.md R98, 43_processor.md R212, R226). -/

namespace Sys2Proof.Machine

/-- Settles O31: the loop of `FETCHI` over the bytes at the program counter up to the unknown byte, or up to the read
that raises; the refusals are those of `FETCHI` itself. -/
theorem fetchiRaisesWhereItStands : Obligations.FetchiRaisesWhereItStands := by
  intro s bytes
  refine ⟨fun hf hr hh hmore => ⟨fun b hne hlen hb => ?unknown, fun c hlen hall hread => ?raises⟩,
    fun hs => exec_fetchi_refused (Or.inl hs), fun hp => exec_fetchi_refused (Or.inr hp)⟩
  all_goals
    have hm : s.memRef = some .mem := hf.2.2
    rw [exec_fetchi, fetchRun_canFetch hf hr, ← List.take_zero (l := bytes)]
  case unknown =>
    have hpos := List.length_pos_of_ne_nil hne
    have loop := fetchLoop_bytes s hm bytes hh hmore (targetMaxLen s.target) 0 hpos (by omega)
    rw [loop.2 b hb]
    split <;> rfl
  case raises =>
    have more : ∀ k, 0 < k → k ≤ bytes.length → targetLenStep s.target (bytes.take k) = .more := by
      intro k h0 hk
      rcases Nat.lt_or_eq_of_le hk with hk | rfl
      · exact hmore k h0 hk
      · rw [List.take_length]
        exact hall (List.ne_nil_of_length_pos h0)
    rw [fetchLoop_bytes_raise hm hh more hread (targetMaxLen s.target) 0 (by omega) (by omega)]
    rfl

end Sys2Proof.Machine
end

section
/-! SUPPORT. The Device commands in a quiet phase: what the Device answers is the outcome of the command, and what a
write leaves for the next read (spec/40_device.md R120, R121, R138, R139). -/

namespace Sys2Proof.Machine

variable {s : State} {sp : Space} {dev off : Nat} {w : Width} {v : Word} {d d' : Device} {c : Condition}
  {bytes : List Byte}

/-! ### One Device: the accesses that raise, and reading back a write -/

/-- A read beyond the end of a Device (R120). -/
theorem Device.read_eq_outOfRange (hd : d.size < off + w.bytes) :
    d.read off w = .error (.outOfRange off d.size (if 1 < w.bytes then some (off, off + w.bytes) else none)) := by
  rw [Device.read_eq, if_pos hd]

/-- A write to a ReadOnly Device: the policy is asked before the range (R121). -/
theorem Device.write_eq_writeProtected (hp : d.policy = .readOnly) :
    d.write off w v = .error (.writeProtected off w) := by
  rw [Device.write, if_pos hp]

/-- A write beyond the end of a ReadWrite Device (R121). -/
theorem Device.write_eq_outOfRange (hp : d.policy = .readWrite) (hd : d.size < off + w.bytes) :
    d.write off w v =
      .error (.outOfRange off d.size (if 1 < w.bytes then some (off, off + w.bytes) else none)) := by
  rw [Device.write, if_neg (by simp [hp]), if_pos hd, payloadSpan]

theorem pow_width_bytes (w : Width) : 256 ^ w.bytes = 2 ^ w.bits := by cases w <;> rfl

theorem lowBits_idem (w : Width) (v : Word) : lowBits w (lowBits w v) = lowBits w v := by
  have fits : v.toNat % 2 ^ w.bits < 2 ^ 64 := Nat.lt_of_le_of_lt (Nat.mod_le _ _) v.isLt
  rw [lowBits, lowBits, BitVec.toNat_ofNat, Nat.mod_eq_of_lt fits, Nat.mod_mod]

/-- A read at the offset and of the width of the write before it (R139): the bytes of the value are read back, and
put together in the same order. -/
theorem Device.read_write (hm : d.storage.wf) (h : d.write off w v = .ok d') : d'.read off w = .ok (lowBits w v) := by
  obtain ⟨_, hsize, rfl⟩ := Device.write_ok h
  have back := Memory.readSpan_writeSpan hm off (bytesOfValue d.order w.bytes v)
  rw [bytesOfValue_length] at back
  rw [Device.read, if_neg (Nat.not_lt.2 hsize)]
  simp only [back, valueOfBytes_bytesOfValue, pow_width_bytes, lowBits]

/-! ### The commands that read and write -/

/-- A Device read that goes through answers the value, and the response alone changes (R120). -/
theorem exec_deviceRead_ok (hq : s.quiet = true) (hd : s.devices[dev]? = some d) (h : d.read off w = .ok v) :
    exec (.deviceRead sp w dev off) s = .next (s.answer (.data w v)) := by
  simp only [exec_deviceRead, whenQuiet_quiet hq, deviceRead, hd, h, answerRead]

/-- A Device read that raises answers the condition (R120, R295). -/
theorem exec_deviceRead_raise (hq : s.quiet = true) (hd : s.devices[dev]? = some d) (h : d.read off w = .error c) :
    exec (.deviceRead sp w dev off) s = .next (s.report c) := by
  simp only [exec_deviceRead, whenQuiet_quiet hq, deviceRead, hd, h, answerRead]

/-- A Device write that goes through replaces the one Device (R121). -/
theorem exec_deviceWrite_ok (hq : s.quiet = true) (hd : s.devices[dev]? = some d)
    (h : d.write off w (lowBits w v) = .ok d') :
    exec (.deviceWrite sp w dev off v) s = .next ((s.setDevice dev d').answer .none) := by
  simp only [exec_deviceWrite, whenQuiet_quiet hq, deviceWrite, hd, h, answerWrite]

/-- A Device write that raises answers the condition, and no Device changes (R121, R295). -/
theorem exec_deviceWrite_raise (hq : s.quiet = true) (hd : s.devices[dev]? = some d)
    (h : d.write off w (lowBits w v) = .error c) :
    exec (.deviceWrite sp w dev off v) s = .next (s.report c) := by
  simp only [exec_deviceWrite, whenQuiet_quiet hq, deviceWrite, hd, h, answerWrite]

/-- The Device that stands under a number after it was replaced. -/
theorem setDevice_getElem?_self (hd : s.devices[dev]? = some d) : (s.setDevice dev d').devices[dev]? = some d' := by
  obtain ⟨hlt, _⟩ := List.getElem?_eq_some_iff.1 hd
  rw [setDevice_devices, List.getElem?_set_self hlt]

/-! ### `DLOAD` (R138) -/

/-- The refusals of `DLOAD`: no ROM, outside `Idle`, a second time. -/
theorem exec_dload_refused (hd : s.devices[dev]? = some d)
    (h : d.kind ≠ .rom ∨ s.lifecycle ≠ .idle ∨ d.loaded = true) : ∃ r, exec (.dload dev bytes) s = .refused r := by
  have refuse : ∃ r, loadRom s dev bytes = .refuse r := by
    simp only [loadRom, hd]
    by_cases hk : d.kind = .rom
    case neg => exact ⟨.notRom, by rw [if_pos hk]⟩
    by_cases hl : s.lifecycle = .idle
    case neg => exact ⟨.notIdle, by rw [if_neg (not_not.2 hk), if_pos hl]⟩
    have hload : d.loaded = true := (h.resolve_left (not_not.2 hk)).resolve_left (not_not.2 hl)
    exact ⟨.alreadyLoaded, by rw [if_neg (not_not.2 hk), if_neg (not_not.2 hl), if_pos hload]⟩
  obtain ⟨r, hr⟩ := refuse
  exact ⟨r, congrArg (answerWrite s) hr⟩

/-- A `DLOAD` that is not refused, of a list that fits: the Device is replaced, and its one Load used up. -/
theorem exec_dload_ok (hd : s.devices[dev]? = some d) (hk : d.kind = .rom) (hl : s.lifecycle = .idle)
    (hload : d.loaded = false) (h : d.load bytes = .ok d') :
    exec (.dload dev bytes) s = .next ((s.setDevice dev { d' with loaded := true }).answer .none) := by
  have ok : loadRom s dev bytes = .ok (s.setDevice dev { d' with loaded := true }) := by
    simp [loadRom, hd, hk, hl, hload, h]
  exact congrArg (answerWrite s) ok

/-- A `DLOAD` that is not refused, of a list that raises: the one Load is not used up. -/
theorem exec_dload_raise (hd : s.devices[dev]? = some d) (hk : d.kind = .rom) (hl : s.lifecycle = .idle)
    (hload : d.loaded = false) (h : d.load bytes = .error c) :
    exec (.dload dev bytes) s = .next (s.report c) := by
  have raise : loadRom s dev bytes = .raise c := by simp [loadRom, hd, hk, hl, hload, h]
  exact congrArg (answerWrite s) raise

/-- The storage after a list is written from offset 0: the list, and then what was there. -/
theorem Memory.read_writeSpan_zero {m : Memory} (hm : m.wf) (bytes : List Byte) (j : Nat) :
    (m.writeSpan 0 bytes).read j = (bytes[j]?).getD (m.read j) := by
  rw [Memory.read_writeSpan hm]
  by_cases hj : j < bytes.length <;> simp [hj]

end Sys2Proof.Machine
end

section
/-! PROOF. The Device family (spec/40_device.md R120, R121, R138, R139). -/

namespace Sys2Proof.Machine

/-- Settles O18: the outcome of the command is that of `DevRead`, which asks the range alone. -/
theorem deviceReadReturnsTheBytes : Obligations.DeviceReadReturnsTheBytes := by
  intro s sp w dev off d hq hd
  exact ⟨fun hsize => exec_deviceRead_raise hq hd (Device.read_eq_outOfRange hsize),
    fun hsize => exec_deviceRead_ok hq hd (Device.read_eq_ok hsize)⟩

/-- Settles O19: the outcome of the command is that of `DevWrite` of the low bits of the value: the policy, then the
range, then the bytes of the span. -/
theorem deviceWriteStoresTheBytes : Obligations.DeviceWriteStoresTheBytes := by
  intro s sp w dev off v d hq hd
  refine ⟨fun hp => ?policy, fun hp hsize => ?range, fun hp hsize hm => ?stores⟩
  case policy => exact exec_deviceWrite_raise hq hd (Device.write_eq_writeProtected hp)
  case range => exact exec_deviceWrite_raise hq hd (Device.write_eq_outOfRange hp hsize)
  case stores =>
    exact ⟨d.storage.writeSpan off (bytesOfValue d.order w.bytes (lowBits w v)),
      exec_deviceWrite_ok hq hd (Device.write_eq_ok hp hsize), Memory.read_writeSpan_bytesOfValue hm d.order⟩

/-- Settles O20: the Device that the write puts in place answers the low bits of the value. -/
theorem deviceRoundTrip : Obligations.DeviceRoundTrip := by
  intro s sp w dev off v d hq hd hp hsize hm
  have stored := Device.write_eq_ok (v := lowBits w v) hp hsize
  have back := Device.read_write hm stored
  rw [lowBits_idem] at back
  exact ⟨_, exec_deviceWrite_ok hq hd stored, exec_deviceRead_ok hq (setDevice_getElem?_self hd) back⟩

/-- Settles O21: past the refusals `DLOAD` writes the list from offset 0, or raises where the list is too long. -/
theorem dloadLoadsARomOnce : Obligations.DloadLoadsARomOnce := by
  intro s dev bytes d hd
  refine ⟨decodeEncodeAgree (.dload dev bytes), exec_dload_refused hd, fun hk hl hload => ⟨fun hlong => ?long,
    fun hfits hm => ⟨d.storage.writeSpan 0 bytes, ?loads, Memory.read_writeSpan_zero hm bytes⟩⟩⟩
  case long => exact exec_dload_raise hd hk hl hload (by rw [Device.load, if_pos hlong])
  case loads => exact exec_dload_ok hd hk hl hload (by rw [Device.load, if_neg (Nat.not_lt.2 hfits)])

end Sys2Proof.Machine
end

section
/-! SUPPORT. The owner of an address (spec/41_router.md R150), and the accesses of a Router that raise
(R151, 60_exceptions.md R291, R295). -/

namespace Sys2Proof.Machine

variable {s : State} {sp : Space} {a : Nat} {w : Width} {v : Word} {e e' : RouterEntry} {c : Condition} {r : Routed}
  {l l' : List RouterEntry}

/-! ### The owner of an address -/

theorem RouterEntry.owns_iff : e.owns a = true ↔ e.base ≤ a ∧ a < e.base + e.size := by
  simp [RouterEntry.owns]

theorem disjoint_symm : Std.Symm RouterEntry.disjoint := ⟨fun _ _ => Or.symm⟩

/-- Two entries that own one address are not disjoint, so they are the same entry (R150). -/
theorem owner_unique (hl : l.Pairwise RouterEntry.disjoint) (he : e ∈ l) (ho : e.base ≤ a ∧ a < e.base + e.size)
    (he' : e' ∈ l) (ho' : e'.base ≤ a ∧ a < e'.base + e'.size) : e = e' := by
  by_contra hne
  have := disjoint_symm
  have hdisjoint : e.disjoint e' := hl.forall he he' hne
  rcases hdisjoint with h | h <;> omega

theorem lookup_eq_none_iff : lookup l a = none ↔ ∀ e ∈ l, ¬(e.base ≤ a ∧ a < e.base + e.size) := by
  simp only [lookup, List.find?_eq_none, RouterEntry.owns_iff]

theorem lookup_eq_some_iff (hl : l.Pairwise RouterEntry.disjoint) :
    lookup l a = some e ↔ e ∈ l ∧ e.base ≤ a ∧ a < e.base + e.size := by
  refine ⟨lookup_some, fun ⟨he, ho⟩ => ?_⟩
  cases hf : lookup l a with
  | none => exact absurd ho (lookup_none hf e he)
  | some e' =>
    obtain ⟨he', ho'⟩ := lookup_some hf
    rw [owner_unique hl he ho he' ho']

theorem lookup_perm (hl : l.Pairwise RouterEntry.disjoint) (hp : l'.Perm l) : lookup l' a = lookup l a := by
  have hl' : l'.Pairwise RouterEntry.disjoint := (hp.pairwise_iff Or.symm).2 hl
  refine Option.ext fun e => ?_
  rw [lookup_eq_some_iff hl', lookup_eq_some_iff hl, hp.mem_iff]

/-! ### The accesses that raise -/

/-- The first check of the Router: the owner of the first byte (R151). -/
theorem route_unowned (ha : a < 2 ^ s.addressWidth sp) (he : lookup (s.entries sp) a = none) :
    route s sp a w = .raise (.unmapped a (s.ranges sp)) := by
  rw [route, if_neg (by simpa [addressFits] using ha)]
  simp only [he]

/-- The second check of the Router: the span in its entry (R151). -/
theorem route_leaves_entry (ha : a < 2 ^ s.addressWidth sp) (he : lookup (s.entries sp) a = some e)
    (hs : e.base + e.size < a + w.bytes) : route s sp a w = .raise (.unmapped a (s.ranges sp)) := by
  rw [route, if_neg (by simpa [addressFits] using ha)]
  simp only [he]
  rw [if_pos hs]

/-- What the Router itself raises is reported for reads as for writes (R171, R295). -/
theorem exec_router_unrouted (hq : s.quiet = true) (hr : route s sp a w = .raise c) (v : Word) :
    exec (.routerRead sp w a) s = .next (s.report c) ∧ exec (.routerWrite sp w a v) s = .next (s.report c) := by
  constructor
  · simp only [exec_routerRead, whenQuiet_quiet hq, routerRead, hr, answerRead]
  · simp only [exec_routerWrite, whenQuiet_quiet hq, routerWrite, hr, answerWrite]

/-- What the Device raises of a read is reported (R295). -/
theorem exec_routerRead_raise (hq : s.quiet = true) (hr : route s sp a w = .ok r)
    (hd : r.device.read r.off w = .error c) : exec (.routerRead sp w a) s = .next (s.report c) := by
  simp only [exec_routerRead, whenQuiet_quiet hq, routerRead, hr, hd, answerRead]

/-- What the Device raises of a write is reported (R295). -/
theorem exec_routerWrite_raise (hq : s.quiet = true) (hr : route s sp a w = .ok r)
    (hd : r.device.write r.off w (lowBits w v) = .error c) :
    exec (.routerWrite sp w a v) s = .next (s.report c) := by
  simp only [exec_routerWrite, whenQuiet_quiet hq, routerWrite, hr, hd, answerWrite]

/-! ### The Devices after an access -/

/-- A Router read replaces no Device (R67). -/
theorem exec_routerRead_devices {t : State} (h : exec (.routerRead sp w a) s = .next t) : t.devices = s.devices := by
  rw [exec_routerRead] at h
  rcases answerRead_next (whenQuiet_next h).2 with ⟨_, _, rfl⟩ | ⟨_, _, rfl⟩ <;> rfl

/-- A Router write replaces no Device but the one of the entry that owns the address (R151). -/
theorem exec_routerWrite_devices {t : State} (h : exec (.routerWrite sp w a v) s = .next t) :
    t.devices = s.devices ∨
      ∃ e d, lookup (s.entries sp) a = some e ∧ t.devices = s.devices.set e.dev d := by
  rw [exec_routerWrite] at h
  rcases answerWrite_next (whenQuiet_next h).2 with ⟨s', hw, rfl⟩ | ⟨_, _, rfl⟩
  · obtain ⟨r, d, hr, _, rfl⟩ := routerWrite_ok hw
    obtain ⟨e, he, _, _, hdev, _⟩ := route_ok hr
    exact Or.inr ⟨e, d, he, by rw [answer_devices, setDevice_devices, hdev]⟩
  · exact Or.inl rfl

theorem storageByte_of_set {t : State} {i k : Nat} {d : Device} (h : t.devices = s.devices.set i d) (hik : i ≠ k)
    (j : Nat) : t.storageByte k j = s.storageByte k j := by
  simp only [State.storageByte, h, List.getElem?_set_ne hik]

/-! ### The entries of a sound block -/

theorem entries_subset (s : State) (sp : Space) : s.entries sp ⊆ s.memEntries ++ s.ioEntries := by
  cases sp
  · exact List.subset_append_left _ _
  · exact List.subset_append_right _ _

theorem entries_disjoint (h : s.routersSound) (sp : Space) : (s.entries sp).Pairwise RouterEntry.disjoint := by
  obtain ⟨⟨hmem, hio⟩, _⟩ := h
  cases sp
  · exact hmem
  · exact hio

/-- A Device is in at most one entry of at most one Router (R22). -/
theorem entry_dev_injective (h : s.routersSound) (he : e ∈ s.memEntries ++ s.ioEntries)
    (he' : e' ∈ s.memEntries ++ s.ioEntries) (hdev : e.dev = e'.dev) : e = e' := by
  obtain ⟨_, _, _, _, hnodup⟩ := h
  exact List.inj_on_of_nodup_map hnodup he he' hdev

end Sys2Proof.Machine
end

section
/-! SUPPORT. Registration in the terms of the statements (spec/41_router.md R152). -/

namespace Sys2Proof.Machine

variable {s : State} {sp : Space} {dev base size : Nat} {d : Device} {e : RouterEntry}

theorem RouterEntry.overlaps_iff : e.overlaps base size = true ↔ base < e.base + e.size ∧ e.base < base + size := by
  simp [RouterEntry.overlaps]

theorem isRegistered_iff : s.isRegistered dev = true ↔ ∃ e ∈ s.memEntries ++ s.ioEntries, e.dev = dev := by
  simp only [State.isRegistered, Bool.or_eq_true, List.any_eq_true, beq_iff_eq, List.mem_append, or_and_right,
    exists_or]

theorem rangeFits_iff {aw : Nat} : rangeFits base size aw = true ↔ 1 ≤ size ∧ base + size ≤ 2 ^ aw := by
  simp [rangeFits]

theorem isRegistered_eq_false (h : ∀ e ∈ s.memEntries ++ s.ioEntries, e.dev ≠ dev) :
    s.isRegistered dev = false := by
  rw [Bool.eq_false_iff, ne_eq, isRegistered_iff]
  exact fun ⟨e, he, hdev⟩ => h e he hdev

/-- The refusals of registration: outside `Idle`, a degenerate range, a Device that is in an entry already. -/
theorem register_refused
    (h : s.lifecycle ≠ .idle ∨ rangeFits base size (s.addressWidth sp) = false ∨ s.isRegistered dev = true) :
    ∃ r, register s sp dev base size = .refuse r := by
  unfold register
  by_cases hl : s.lifecycle = .idle
  case neg => exact ⟨.notIdle, if_pos hl⟩
  rw [if_neg (not_not.2 hl)]
  cases hr : rangeFits base size (s.addressWidth sp)
  case false => exact ⟨.malformedRange, rfl⟩
  cases hd : s.devices[dev]? with
  | none => exact ⟨.noSuchDevice, rfl⟩
  | some d =>
    have hreg : s.isRegistered dev = true := by simpa [hl, hr] using h
    exact ⟨.deviceRegistered, by simp [hreg]⟩

theorem exec_registration_refused
    (h : s.lifecycle ≠ .idle ∨ rangeFits base size (s.addressWidth sp) = false ∨ s.isRegistered dev = true) :
    ∃ r, exec (registration sp dev base size) s = .refused r := by
  obtain ⟨r, hr⟩ := register_refused h
  exact ⟨r, by rw [exec_registration, hr, answerWrite]⟩

/-- A registration that is not refused, of a range that overlaps no entry (R152). -/
theorem exec_registration_appends (hl : s.lifecycle = .idle) (hr : rangeFits base size (s.addressWidth sp) = true)
    (hreg : s.isRegistered dev = false) (hd : s.devices[dev]? = some d)
    (hfree : ∀ e ∈ s.entries sp, ¬(base < e.base + e.size ∧ e.base < base + size)) :
    exec (registration sp dev base size) s =
      .next (((s.addEntry sp { dev, base, size }).setDevice dev { d with base }).answer .none) := by
  have hf : ((s.entries sp).find? fun e => e.overlaps base size) = none := by
    simpa only [List.find?_eq_none, RouterEntry.overlaps_iff] using hfree
  have appended : register s sp dev base size =
      .ok ((s.addEntry sp { dev, base, size }).setDevice dev { d with base }) := by
    simp [register, hl, hr, hreg, hd, hf]
  rw [exec_registration, appended, answerWrite]

/-- A registration that is not refused, of a range that overlaps an entry: the first one is reported (R152, R287). -/
theorem exec_registration_overlaps {l₁ l₂ : List RouterEntry} (hl : s.lifecycle = .idle)
    (hr : rangeFits base size (s.addressWidth sp) = true) (hreg : s.isRegistered dev = false)
    (hd : s.devices[dev]? = some d) (hsplit : s.entries sp = l₁ ++ e :: l₂)
    (hbefore : ∀ e' ∈ l₁, ¬(base < e'.base + e'.size ∧ e'.base < base + size))
    (he : base < e.base + e.size ∧ e.base < base + size) :
    exec (registration sp dev base size) s =
      .next (s.report (.overlappingRegistration (base, size) (e.base, e.size))) := by
  have first : ((s.entries sp).find? fun e => e.overlaps base size) = some e := by
    refine List.find?_eq_some_iff_append.2 ⟨RouterEntry.overlaps_iff.2 he, l₁, l₂, hsplit, fun e' he' => ?_⟩
    rw [Bool.not_eq_true', Bool.eq_false_iff, ne_eq, RouterEntry.overlaps_iff]
    exact hbefore e' he'
  have raised : register s sp dev base size = .raise (.overlappingRegistration (base, size) (e.base, e.size)) := by
    simp [register, hl, hr, hreg, hd, first]
  rw [exec_registration, raised, answerWrite]

/-- Both codes of registration decode to it (R93). -/
theorem decode_registration (sp : Space) (dev base size : Nat) :
    decodeCommand ⟨if sp = .mem then 0x40 else 0x50, dev, base, 0, .size size⟩ =
      .ok (registration sp dev base size) := by
  cases sp
  · exact decodeEncodeAgree (.regm dev base size)
  · exact decodeEncodeAgree (.regio dev base size)

end Sys2Proof.Machine
end

section
/-! PROOF. After the first `START` both tables are constants (spec/41_router.md R172). -/

namespace Sys2Proof.Machine

/-- A built state past the first `START` whose Routers have these entries. -/
structure State.HasTables (mem io : List RouterEntry) (s : State) : Prop where
  memEntries : s.memEntries = mem
  ioEntries : s.ioEntries = io
  started : s.lifecycle ≠ .idle
  built : s.built = true

/-- The worker registers nothing, and where it ends a run it leaves the block `Stopped`. -/
theorem WorkerMove.keep_tables {mem io : List RouterEntry} {s t : State} (hm : WorkerMove s t)
    (h : s.HasTables mem io) : t.HasTables mem io := by
  obtain ⟨hmem, hio, hl, hb⟩ := h
  cases hm with
  | fault | exit => exact ⟨hmem, hio, by simp, hb⟩
  | beginFetch | consume | endFetch | decode | writeReg | store | retire | tick => exact ⟨hmem, hio, hl, hb⟩

/-- Of the commands only `BUILD` and the registrations make entries: `BUILD` is not of a built block, and a registration
is one of `Idle` (R152, R299). -/
theorem CommandEffect.keep_tables {mem io : List RouterEntry} {i : Instr} {s t : State} (he : CommandEffect i s t)
    (h : s.HasTables mem io) : t.HasTables mem io := by
  obtain ⟨hmem, hio, hl, hb⟩ := h
  cases he with
  | register hr => exact absurd (register_ok hr).1 hl
  | build r hb' => cases hb.symm.trans hb'
  | start | stop => exact ⟨hmem, hio, by simp, hb⟩
  | respond | store | load | writeReg | setup | reset | callback | wait => exact ⟨hmem, hio, hl, hb⟩

/-- Settles O17: every move of the worker and every effect of a command keeps the tables of a block that was started. -/
theorem tablesConstantAfterStart : Obligations.TablesConstantAfterStart := by
  intro s t hb hl h
  have kept : t.HasTables s.memEntries s.ioEntries :=
    step_keeps (fun _ _ ⟨hmem, hio, hl, hb⟩ => ⟨hmem, hio, hl, hb⟩) (fun _ _ => WorkerMove.keep_tables)
      (fun _ _ _ => CommandEffect.keep_tables) ⟨rfl, rfl, hl, hb⟩ h
  exact ⟨kept.memEntries, kept.ioEntries, kept.started, kept.built⟩

end Sys2Proof.Machine
end

section
/-! PROOF. The Routers: lookup, the checks of an access, its frame, and registration (spec/41_router.md R150 to R153,
R170, R171). -/

namespace Sys2Proof.Machine

/-- Settles O12: no owner of the first byte is what the Router's first check raises. -/
theorem unownedAddressIsUnmapped : Obligations.UnownedAddressIsUnmapped := by
  intro s sp w a v hq ha hfree
  exact exec_router_unrouted hq (route_unowned ha (lookup_eq_none_iff.2 hfree)) v

/-- Settles O13: each clause is one check that fails after those before it have passed, first the Router's two, then the
Device's. -/
theorem routerChecksInPriorityOrder : Obligations.RouterChecksInPriorityOrder := by
  intro s sp w a v hq ha
  refine ⟨fun he => ?owner, fun e he => ⟨fun hs => ?span, fun d hs hd => ?device⟩⟩
  case owner => exact exec_router_unrouted hq (route_unowned ha he) v
  case span => exact exec_router_unrouted hq (route_leaves_entry ha he hs) v
  case device =>
    have routed := route_eq_ok ha he hs hd
    refine ⟨fun hp => ?policy, fun hsize => ⟨?readRange, fun hp => ?writeRange⟩⟩
    case policy => exact exec_routerWrite_raise hq routed (Device.write_eq_writeProtected hp)
    case readRange => exact exec_routerRead_raise hq routed (Device.read_eq_outOfRange hsize)
    case writeRange => exact exec_routerWrite_raise hq routed (Device.write_eq_outOfRange hp hsize)

/-- Settles O14: an address has at most one owner among disjoint entries, and being an entry does not depend on the
order. -/
theorem lookupFindsTheOneOwner : Obligations.LookupFindsTheOneOwner :=
  fun _ _ hl => ⟨fun _ => lookup_eq_some_iff hl, lookup_eq_none_iff, fun _ hp => lookup_perm hl hp⟩

/-- Settles O15: only the Device of the owner is replaced, and no other entry has this Device. -/
theorem otherDevicesUntouched : Obligations.OtherDevicesUntouched := by
  intro s t sp w a v e e' hsound he he' hne hlo hhi h j
  have owner : lookup (s.entries sp) a = some e :=
    (lookup_eq_some_iff (entries_disjoint hsound sp)).2 ⟨he, hlo, hhi⟩
  have other : e.dev ≠ e'.dev := fun hdev =>
    hne (entry_dev_injective hsound he' (entries_subset s sp he) hdev.symm)
  have kept : t.devices = s.devices → t.storageByte e'.dev j = s.storageByte e'.dev j := fun hds => by
    simp only [State.storageByte, hds]
  rcases h with h | h
  · exact kept (exec_routerRead_devices h)
  · rcases exec_routerWrite_devices h with hds | ⟨e'', d, hfound, hds⟩
    · exact kept hds
    · obtain rfl : e = e'' := Option.some.inj (owner.symm.trans hfound)
      exact storageByte_of_set hds other j

/-- Settles O16: the decoder's two arms, the refusals of `Register`, and past these the first overlapping entry, or
none. -/
theorem registrationAppendsOrRejects : Obligations.RegistrationAppendsOrRejects := by
  intro s sp dev base size
  refine ⟨decode_registration sp dev base size, fun hl => exec_registration_refused (Or.inl hl),
    fun hrange => exec_registration_refused (Or.inr (Or.inl ?degenerate)),
    fun hreg => exec_registration_refused (Or.inr (Or.inr (isRegistered_iff.2 hreg))),
    fun d hl hsize hfits hnew hd => ⟨fun hfree => ?appends, fun l₁ l₂ e hsplit hbefore he => ?overlaps⟩⟩
  case degenerate =>
    rw [Bool.eq_false_iff, ne_eq, rangeFits_iff]
    omega
  case appends =>
    rw [exec_registration_appends hl (rangeFits_iff.2 ⟨hsize, hfits⟩) (isRegistered_eq_false hnew) hd hfree]
    cases sp <;> rfl
  case overlaps =>
    exact exec_registration_overlaps hl (rangeFits_iff.2 ⟨hsize, hfits⟩) (isRegistered_eq_false hnew) hd hsplit
      hbefore he

end Sys2Proof.Machine
end

section
/-! SUPPORT. The halves of a value as its quotient and its remainder (spec/42_regfile.md R191, R192). -/

namespace Sys2Proof.Machine

variable {p : Part} {w : Width} {parent v : Word} {n : Nat}

/-! ### Masks -/

theorem getLsbD_maskBits (n i : Nat) : (maskBits n).getLsbD i = (decide (i < 64) && decide (i < n)) := by
  rw [maskBits, BitVec.getLsbD_ofNat, Nat.testBit_two_pow_sub_one]

/-- Masking the low bits is taking the remainder. -/
theorem toNat_and_maskBits (hn : n ≤ 64) (v : Word) : (v &&& maskBits n).toNat = v.toNat % 2 ^ n := by
  have fits : 2 ^ n - 1 < 2 ^ 64 :=
    (Nat.sub_lt (Nat.two_pow_pos n) Nat.one_pos).trans_le (Nat.pow_le_pow_right (by decide) hn)
  rw [BitVec.toNat_and, maskBits, BitVec.toNat_ofNat, Nat.mod_eq_of_lt fits, Nat.and_two_pow_sub_one_eq_mod]

/-- Clearing the low bits is a shift down and up again. -/
theorem and_not_maskBits (v : Word) (n : Nat) : v &&& ~~~(maskBits n) = (v >>> n) <<< n := by
  refine BitVec.eq_of_getLsbD_eq fun i hi => ?_
  rw [BitVec.getLsbD_and, BitVec.getLsbD_not, getLsbD_maskBits, BitVec.getLsbD_shiftLeft, BitVec.getLsbD_ushiftRight]
  by_cases hn : i < n
  · simp [hn, hi]
  · simp [hn, hi, Nat.add_sub_cancel' (Nat.le_of_not_lt hn)]

/-- Clearing the low bits keeps the quotient in its place. -/
theorem toNat_and_not_maskBits (v : Word) (n : Nat) : (v &&& ~~~(maskBits n)).toNat = v.toNat / 2 ^ n * 2 ^ n := by
  rw [and_not_maskBits, BitVec.toNat_shiftLeft, BitVec.toNat_ushiftRight, Nat.shiftRight_eq_div_pow, Nat.shiftLeft_eq]
  exact Nat.mod_eq_of_lt ((Nat.div_mul_le_self _ _).trans_lt v.isLt)

/-- Putting a low part under a multiple is adding it. -/
theorem mul_two_pow_or {b : Nat} (hb : b < 2 ^ n) (a : Nat) : a * 2 ^ n ||| b = a * 2 ^ n + b := by
  rw [Nat.mul_comm, Nat.two_pow_add_eq_or_of_lt hb]

/-- `data` cut to a width (R90). -/
theorem sliceData_eq_lowBits (w : Width) (v : Word) : sliceData w v = lowBits w v :=
  (BitVec.toNat_eq_nat.1 (toNat_and_maskBits (bits_le w) v)).2

/-! ### Half widths -/

theorem half_bits_le (w : Width) : w.bits / 2 ≤ 64 := (Nat.div_le_self _ _).trans (bits_le w)

theorem half_bits_add (w : Width) : w.bits / 2 + w.bits / 2 = w.bits := by cases w <;> rfl

/-- The halves of every register wider than a byte have half its width (R190). -/
theorem halfWidth_bits (hw : w ≠ .w8) : (halfWidth w).bits = w.bits / 2 := by
  cases w with
  | w8 => exact absurd rfl hw
  | w16 | w32 | w64 => rfl

/-! ### Reading a half (R191) -/

theorem readPart_lo (w : Width) (v : Word) :
    readPart .lo w v = BitVec.ofNat 64 (v.toNat % 2 ^ (w.bits / 2)) :=
  (BitVec.toNat_eq_nat.1 (toNat_and_maskBits (half_bits_le w) v)).2

/-- The high half of a value of its width is the whole quotient. -/
theorem readPart_hi (hv : v.toNat < 2 ^ w.bits) :
    readPart .hi w v = BitVec.ofNat 64 (v.toNat / 2 ^ (w.bits / 2)) := by
  have small : v.toNat / 2 ^ (w.bits / 2) < 2 ^ (w.bits / 2) := by
    rwa [Nat.div_lt_iff_lt_mul (Nat.two_pow_pos _), ← Nat.pow_add, half_bits_add]
  have value : (readPart .hi w v).toNat = v.toNat / 2 ^ (w.bits / 2) := by
    rw [readPart, toNat_and_maskBits (half_bits_le w), BitVec.toNat_ushiftRight, Nat.shiftRight_eq_div_pow,
      Nat.mod_eq_of_lt small]
  exact (BitVec.toNat_eq_nat.1 value).2

/-! ### Writing a half (R192) -/

/-- A half written from `data` cut to the half's width is the half written from `data`. -/
theorem writePart_sliceData (hw : w ≠ .w8) :
    writePart p w parent (sliceData (halfWidth w) v) = writePart p w parent v := by
  have masked : sliceData (halfWidth w) v &&& maskBits (w.bits / 2) = v &&& maskBits (w.bits / 2) := by
    rw [sliceData, halfWidth_bits hw, BitVec.and_assoc, BitVec.and_self]
  cases p with
  | hi | lo => simp only [writePart, masked]

theorem toNat_writePart_hi (w : Width) (parent v : Word) :
    (writePart .hi w parent v).toNat =
      v.toNat % 2 ^ (w.bits / 2) * 2 ^ (w.bits / 2) + parent.toNat % 2 ^ (w.bits / 2) := by
  have low (x : Word) : (x &&& maskBits (w.bits / 2)).toNat = x.toNat % 2 ^ (w.bits / 2) :=
    toNat_and_maskBits (half_bits_le w) x
  have fits : v.toNat % 2 ^ (w.bits / 2) * 2 ^ (w.bits / 2) < 2 ^ 64 :=
    calc v.toNat % 2 ^ (w.bits / 2) * 2 ^ (w.bits / 2)
      _ < 2 ^ (w.bits / 2) * 2 ^ (w.bits / 2) :=
        Nat.mul_lt_mul_of_pos_right (Nat.mod_lt _ (Nat.two_pow_pos _)) (Nat.two_pow_pos _)
      _ = 2 ^ w.bits := by rw [← Nat.pow_add, half_bits_add]
      _ ≤ 2 ^ 64 := Nat.pow_le_pow_right (by decide) (bits_le w)
  rw [writePart, BitVec.toNat_or, BitVec.toNat_shiftLeft, low, low, Nat.shiftLeft_eq, Nat.mod_eq_of_lt fits,
    mul_two_pow_or (Nat.mod_lt _ (Nat.two_pow_pos _))]

theorem toNat_writePart_lo (w : Width) (parent v : Word) :
    (writePart .lo w parent v).toNat =
      parent.toNat / 2 ^ (w.bits / 2) * 2 ^ (w.bits / 2) + v.toNat % 2 ^ (w.bits / 2) := by
  rw [writePart, BitVec.toNat_or, toNat_and_not_maskBits, toNat_and_maskBits (half_bits_le w),
    mul_two_pow_or (Nat.mod_lt _ (Nat.two_pow_pos _))]

/-- The high half written, then the low half: nothing is left of the parent. -/
theorem writePart_hi_lo (w : Width) (parent vh vl : Word) :
    writePart .lo w (writePart .hi w parent vh) vl =
      BitVec.ofNat 64 (vh.toNat % 2 ^ (w.bits / 2) * 2 ^ (w.bits / 2) + vl.toNat % 2 ^ (w.bits / 2)) := by
  refine (BitVec.toNat_eq_nat.1 ?_).2
  rw [toNat_writePart_lo, toNat_writePart_hi, Nat.add_comm (_ * _) (parent.toNat % _),
    Nat.add_mul_div_right _ _ (Nat.two_pow_pos _), Nat.div_eq_of_lt (Nat.mod_lt _ (Nat.two_pow_pos _)), Nat.zero_add]

/-- The low half written, then the high half: nothing is left of the parent. -/
theorem writePart_lo_hi (w : Width) (parent vh vl : Word) :
    writePart .hi w (writePart .lo w parent vl) vh =
      BitVec.ofNat 64 (vh.toNat % 2 ^ (w.bits / 2) * 2 ^ (w.bits / 2) + vl.toNat % 2 ^ (w.bits / 2)) := by
  refine (BitVec.toNat_eq_nat.1 ?_).2
  rw [toNat_writePart_hi, toNat_writePart_lo, Nat.mul_add_mod_of_lt (Nat.mod_lt _ (Nat.two_pow_pos _))]

end Sys2Proof.Machine
end

section
/-! SUPPORT. The register commands in a quiet phase: what the register file answers for a name is the outcome of the
command (spec/42_regfile.md R191 to R195). -/

namespace Sys2Proof.Machine

variable {s : State} {f : RegFile} {r : RegName} {h : HalfReg} {c : RegCell} {w : Width} {v : Word}

/-! ### The register file by the kind of the name (R193) -/

theorem width?_of_cell (hc : f.cell? r = some c) : f.width? r = some c.width := by simp only [RegFile.width?, hc]

theorem read_of_cell (hc : f.cell? r = some c) : f.read r = some c.val := by simp only [RegFile.read, hc]

theorem write_of_cell (hc : f.cell? r = some c) (v : Word) : f.write r v = some (f.setCell r v) := by
  simp only [RegFile.write, hc]

theorem width?_of_half (hr : f.cell? r = none) (hh : f.half? r = some h) (hc : f.cell? h.parent = some c) :
    f.width? r = some (halfWidth c.width) := by
  simp only [RegFile.width?, hr, hh, hc, Option.map_some]

theorem read_of_half (hr : f.cell? r = none) (hh : f.half? r = some h) (hc : f.cell? h.parent = some c) :
    f.read r = some (readPart h.part c.width c.val) := by
  simp only [RegFile.read, hr, hh, hc, Option.map_some]

theorem write_of_half (hr : f.cell? r = none) (hh : f.half? r = some h) (hc : f.cell? h.parent = some c) (v : Word) :
    f.write r v = some (f.setCell h.parent (writePart h.part c.width c.val v)) := by
  simp only [RegFile.write, hr, hh, hc, Option.map_some]

/-- The cell of a register that was written. -/
theorem cell?_setCell_self (hc : f.cell? r = some c) (v : Word) :
    (f.setCell r v).cell? r = some { c with val := v } := by
  rw [cell?_setCell, hc, Option.map_some, if_pos rfl]

/-- A name not in the schema has no width. -/
theorem width?_of_unknown (hr : f.cell? r = none) (hh : f.half? r = none) : f.width? r = none := by
  simp only [RegFile.width?, hr, hh]

/-! ### `RDREG` (R194) -/

/-- `RDREG` of a name that the register file reads answers the value, and the response alone changes. -/
theorem exec_rdreg_ok (hq : s.quiet = true) (hw : s.regs.width? r = some w) (hv : s.regs.read r = some v) :
    exec (.rdreg r) s = .next (s.answer (.data w v)) := by
  change execRdreg r s = _
  simp only [execRdreg, whenQuiet_quiet hq, readRegister, hw, hv]

theorem exec_rdreg_unknown (hq : s.quiet = true) (hw : s.regs.width? r = none) :
    exec (.rdreg r) s = .refused .noSuchRegister := by
  change execRdreg r s = _
  simp only [execRdreg, whenQuiet_quiet hq, readRegister, hw]

/-! ### `WRREG` (R195) -/

/-- `WRREG` of a name that the register file writes replaces the register file. -/
theorem exec_wrreg_ok (hq : s.quiet = true) (hw : s.regs.width? r = some w)
    (hf : s.regs.write r (sliceData w v) = some f) : exec (.wrreg r v) s = .next ((s.withRegs f).answer .none) := by
  change execWrreg r v s = _
  simp only [execWrreg, whenQuiet_quiet hq, writeRegisterSlice, hw, hf, answerWrite]

theorem exec_wrreg_unknown (hq : s.quiet = true) (hw : s.regs.width? r = none) :
    exec (.wrreg r v) s = .refused .noSuchRegister := by
  change execWrreg r v s = _
  simp only [execWrreg, whenQuiet_quiet hq, writeRegisterSlice, hw, answerWrite]

/-- `WRREG` of a half replaces the half in its parent. -/
theorem exec_wrreg_half (hq : s.quiet = true) (hr : s.regs.cell? r = none) (hh : s.regs.half? r = some h)
    (hc : s.regs.cell? h.parent = some c) (hw : c.width ≠ .w8) :
    exec (.wrreg r v) s =
      .next ((s.withRegs (s.regs.setCell h.parent (writePart h.part c.width c.val v))).answer .none) := by
  have write := write_of_half hr hh hc (sliceData (halfWidth c.width) v)
  rw [writePart_sliceData hw] at write
  exact exec_wrreg_ok hq (width?_of_half hr hh hc) write

/-- Two halves of one parent written one after the other, and the parent read: the second write acts on what the first
has left. -/
theorem wrreg_halves_then_rdreg {p n₁ n₂ r₁ r₂ : RegName} {q₁ q₂ : Part} (v₁ v₂ : Word) (hq : s.quiet = true)
    (hc : s.regs.cell? p = some c) (hw : c.width ≠ .w8)
    (hr₁ : s.regs.cell? r₁ = none) (hh₁ : s.regs.half? r₁ = some { name := n₁, parent := p, part := q₁ })
    (hr₂ : s.regs.cell? r₂ = none) (hh₂ : s.regs.half? r₂ = some { name := n₂, parent := p, part := q₂ }) :
    ∃ t u, exec (.wrreg r₁ v₁) s = .next t ∧ exec (.wrreg r₂ v₂) t = .next u ∧
      exec (.rdreg p) u = .next
        (u.answer (.data c.width (writePart q₂ c.width (writePart q₁ c.width c.val v₁) v₂))) := by
  have parent₁ := cell?_setCell_self hc (writePart q₁ c.width c.val v₁)
  have parent₂ := cell?_setCell_self parent₁ (writePart q₂ c.width (writePart q₁ c.width c.val v₁) v₂)
  have stillHalf : (s.regs.setCell p (writePart q₁ c.width c.val v₁)).cell? r₂ = none := by
    rw [cell?_setCell, hr₂, Option.map_none]
  have width := width?_of_cell parent₂
  have value := read_of_cell parent₂
  exact ⟨_, _, exec_wrreg_half hq hr₁ hh₁ hc hw, exec_wrreg_half hq stillHalf hh₂ parent₁ hw,
    exec_rdreg_ok hq width value⟩

end Sys2Proof.Machine
end

section
/-! PROOF. The register commands (spec/42_regfile.md R191 to R197). -/

namespace Sys2Proof.Machine

/-- Settles O24: the three kinds of names of the register file, a half as the quotient or the remainder of its
parent. -/
theorem rdregReadsWholeAndHalf : Obligations.RdregReadsWholeAndHalf := by
  intro s hq
  refine ⟨fun r c hc => ?whole, fun r h c hr hh hc hw hv => ?half, fun r hr hh => ?unknown⟩
  case whole => exact exec_rdreg_ok hq (width?_of_cell hc) (read_of_cell hc)
  case half =>
    refine ⟨halfWidth c.width, halfWidth_bits hw, ?_⟩
    rw [exec_rdreg_ok hq (width?_of_half hr hh hc) (read_of_half hr hh hc)]
    obtain ⟨name, parent, part⟩ := h
    cases part with
    | hi => rw [readPart_hi hv]; rfl
    | lo => rw [readPart_lo]; rfl
  case unknown => exact ⟨_, exec_rdreg_unknown hq (width?_of_unknown hr hh)⟩

/-- Settles O25: the three kinds of names again; a half is put into its parent by quotient and remainder. -/
theorem wrregWritesWholeAndHalf : Obligations.WrregWritesWholeAndHalf := by
  intro s v hq
  refine ⟨fun r c hc => ?whole, fun r h c hr hh hc hw hv => ?half, fun r hr hh => ?unknown⟩
  case whole =>
    rw [exec_wrreg_ok hq (width?_of_cell hc) (write_of_cell hc _), sliceData_eq_lowBits]
    rfl
  case half =>
    rw [exec_wrreg_half hq hr hh hc hw]
    obtain ⟨name, parent, part⟩ := h
    cases part with
    | hi => rw [(BitVec.toNat_eq_nat.1 (toNat_writePart_hi c.width c.val v)).2]; rfl
    | lo => rw [(BitVec.toNat_eq_nat.1 (toNat_writePart_lo c.width c.val v)).2]; rfl
  case unknown => exact ⟨_, exec_wrreg_unknown hq (width?_of_unknown hr hh)⟩

/-- Settles O26: in either order the second write keeps the half the first one put, and overwrites the rest of the
parent. -/
theorem halvesComposeToTheWhole : Obligations.HalvesComposeToTheWhole := by
  intro s p hi lo c vh vl hq hc hw _ hrHi hhHi hrLo hhLo
  refine ⟨?hiThenLo, ?loThenHi⟩
  case hiThenLo =>
    have run := wrreg_halves_then_rdreg vh vl hq hc hw hrHi hhHi hrLo hhLo
    rwa [writePart_hi_lo] at run
  case loThenHi =>
    have run := wrreg_halves_then_rdreg vl vh hq hc hw hrLo hhLo hrHi hhHi
    rwa [writePart_lo_hi] at run

/-- Settles O27: both commands answer from the view of the register file; the text is the environment's. -/
theorem getregsAndPrintregsView : Obligations.GetregsAndPrintregsView := by
  intro s hq
  exact ⟨whenQuiet_quiet hq, fun n => ⟨Config.registerText s.regs.view, whenQuiet_quiet hq⟩⟩

end Sys2Proof.Machine
end

section
/-! SUPPORT. The steps of the Processor as equations, one for each way they can begin, and the end of an instruction by
the callback's answer (spec/43_processor.md R213, R214, R221, R225). -/

namespace Sys2Proof.Machine

variable {s s' : State} {d : Decoded} {o : ExecOutcome} {tree : ExecTree} {c : Condition} {i : Instr} {cb : Nat}

/-! ### The instructions by the run they are the outcome of -/

theorem exec_decodei (s : State) : exec .decodei s = workerOutcome (decodeRun s) := rfl
theorem exec_execi (s : State) : exec .execi s = workerOutcome (execRun s) := rfl
theorem exec_workerstep (s : State) : exec .workerstep s = execWorkerstep s := rfl

/-- An instruction of the stream is the `Exec` of its decoded form (R222, R223, R224). -/
theorem exec_of_decodedOf (h : decodedOf i = some d) : exec i s = workerOutcome (executeTree (targetExec d) s) := by
  cases i with
  | ldiA imm => cases h; rfl
  | hlt => cases h; rfl
  | _ => cases h

/-! ### `DECODEI` (R213) -/

theorem decodeRun_halted (hp : s.pstate = .halted) : decodeRun s = .done s := by
  simp only [decodeRun, hp]

theorem decodeRun_decoding (hp : s.pstate = .decoding) (hd : targetDecode s.target s.ibuf = some d) :
    decodeRun s = .done { s with decoded := some d, pstate := .executing } := by
  simp only [decodeRun, hp, hd]

theorem decodeRun_outOfSequence (hh : s.pstate ≠ .halted) (hd : s.pstate ≠ .decoding) :
    decodeRun s = .refused .outOfSequence := by
  rcases decodeRun_cases s with ⟨h, _⟩ | ⟨h, _⟩ | ⟨h, _⟩ | ⟨_, _, h⟩
  · exact absurd h hh
  · exact absurd h hd
  · exact absurd h hd
  · exact h

/-! ### `EXECI` (R214) -/

theorem executeTree_halted (tree : ExecTree) (hp : s.pstate = .halted) : executeTree tree s = .done s := by
  simp only [executeTree, hp]

theorem executeTree_ends (hp : s.pstate = .executing) (hr : runTree tree s = .ends s' o) :
    executeTree tree s = finishInstruction o s' := by
  simp only [executeTree, hp, hr]

theorem executeTree_raised (hp : s.pstate = .executing) (hr : runTree tree s = .raised s' c) :
    executeTree tree s = .raised s' c := by
  simp only [executeTree, hp, hr]

/-- `EXECI` of a halted Processor is ignored (R225). -/
theorem execRun_halted (hp : s.pstate = .halted) : execRun s = .done s := by
  simp [execRun, executeDecoded, hp]

/-- `EXECI` of a decoded instruction is its `Exec` (R214). -/
theorem execRun_executing (hp : s.pstate = .executing) (hd : s.decoded = some d) :
    execRun s = executeTree (targetExec d) s := by
  simp [execRun, executeDecoded, hp, hd]

/-- `EXECI` where `FETCHI` has just ended decodes first, and goes on as from there (R214). -/
theorem execRun_decoding (hp : s.pstate = .decoding) (hd : targetDecode s.target s.ibuf = some d) :
    execRun s = execRun { s with decoded := some d, pstate := .executing } := by
  rw [execRun, if_pos hp, decodeRun_decoding hp hd]
  rfl

theorem execRun_outOfSequence (hp : s.pstate = .reset ∨ s.pstate = .fetching) :
    execRun s = .refused .outOfSequence := by
  rcases hp with hp | hp <;> simp [execRun, executeDecoded, hp]

/-! ### The callback (R221) -/

/-- State with the environment's answers and the count of questions replaced. -/
def State.withAnswers (s : State) (answers : List CallbackAnswer) (count : Nat) : State :=
  { s with dbgAnswers := answers, dbgCount := count }

theorem consultCallback_given {answer : CallbackAnswer} {rest : List CallbackAnswer}
    (h : s.dbgAnswers = answer :: rest) :
    consultCallback cb s = (answer, s.withAnswers rest (s.dbgCount + 1)) := by
  simp only [consultCallback, h, State.withAnswers]

theorem consultCallback_free (h : s.dbgAnswers = []) :
    consultCallback cb s =
      (if Config.callbackContinues cb s.instrIndex s.regs.view s.dbgCount then .continues else .stops,
        s.withAnswers [] (s.dbgCount + 1)) := by
  simp only [consultCallback, h, State.withAnswers]

/-- Before the callback is consulted an instruction has ended as `EXECI` without a callback ends it, but for the index
(R214). -/
theorem afterExec_eq (hp : s.pstate = .executing) :
    afterExec o s =
      { s with
        ibuf := []
        decoded := none
        pstate := if o = .halt then .halted else .executing
        haltCause := if o = .halt then .haltInstruction else s.haltCause } := by
  cases o <;> simp [afterExec, haltWith, hp]

/-- What the callback is given: the registers after the instruction, and the index before its increment (R214, R221). -/
theorem afterExec_sees (o : ExecOutcome) (hp : s.pstate = .executing) :
    (afterExec o s).dbg = s.dbg ∧ (afterExec o s).dbgAnswers = s.dbgAnswers ∧ (afterExec o s).dbgCount = s.dbgCount ∧
      (afterExec o s).instrIndex = s.instrIndex ∧ (afterExec o s).regs = s.regs := by
  rw [afterExec_eq hp]
  exact ⟨rfl, rfl, rfl, rfl, rfl⟩

/-- The counting of an instruction after which no callback has stopped the Processor (R214). -/
theorem countInstruction_afterExec (hp : s.pstate = .executing) (answers : List CallbackAnswer) (count : Nat) :
    countInstruction ((afterExec o s).withAnswers answers count) = s.executed o false answers count := by
  rw [afterExec_eq hp]
  cases o <;> simp [countInstruction, State.withAnswers, State.executed]

/-- The counting of an instruction after which the callback stops the Processor: the first cause wins (R30, R214). -/
theorem countInstruction_haltWith_afterExec (hp : s.pstate = .executing) (answers : List CallbackAnswer) (count : Nat) :
    countInstruction (haltWith .debugRequested ((afterExec o s).withAnswers answers count)) =
      s.executed o true answers count := by
  rw [afterExec_eq hp]
  cases o <;> simp [countInstruction, haltWith, State.withAnswers, State.executed]

theorem finishInstruction_of_callbackStep (h : callbackStep (afterExec o s) = .done s') :
    finishInstruction o s = .done (countInstruction s') := by
  cases o <;> simp only [afterExec] at h <;> simp only [finishInstruction, h]

/-- With no callback installed an instruction ends as R214 has it, and nobody is asked. -/
theorem finishInstruction_unasked (hp : s.pstate = .executing) (hd : s.dbg = none) :
    finishInstruction o s = .done (s.executed o false s.dbgAnswers s.dbgCount) := by
  have kept : afterExec o s = (afterExec o s).withAnswers s.dbgAnswers s.dbgCount := by
    rw [afterExec_eq hp]; rfl
  rw [finishInstruction_no_callback hd, kept, countInstruction_afterExec hp]

/-- The answer of a callback that obeys the rules it is under: to stop, or to continue (R221). -/
def CallbackAnswer.ofStop (stop : Bool) : CallbackAnswer := if stop then .stops else .continues

/-- With a callback installed an instruction ends as the answer has it (R214, R221). -/
theorem finishInstruction_answered {stop : Bool} {answers : List CallbackAnswer} {count : Nat}
    (hp : s.pstate = .executing) (hd : s.dbg = some cb)
    (ha : consultCallback cb (afterExec o s) =
      (CallbackAnswer.ofStop stop, (afterExec o s).withAnswers answers count)) :
    finishInstruction o s = .done (s.executed o stop answers count) := by
  obtain ⟨hdbg, _⟩ := afterExec_sees o hp
  have installed : (afterExec o s).dbg = some cb := hdbg.trans hd
  cases stop with
  | false =>
    have step : callbackStep (afterExec o s) = .done ((afterExec o s).withAnswers answers count) := by
      simp [callbackStep, installed, ha, CallbackAnswer.ofStop]
    rw [finishInstruction_of_callbackStep step, countInstruction_afterExec hp]
  | true =>
    have step : callbackStep (afterExec o s) =
        .done (haltWith .debugRequested ((afterExec o s).withAnswers answers count)) := by
      simp [callbackStep, installed, ha, CallbackAnswer.ofStop]
    rw [finishInstruction_of_callbackStep step, countInstruction_haltWith_afterExec hp]

/-- A callback whose answer the environment has given (R221). -/
theorem finishInstruction_given {stop : Bool} {rest : List CallbackAnswer} (hp : s.pstate = .executing)
    (hd : s.dbg = some cb) (ha : s.dbgAnswers = CallbackAnswer.ofStop stop :: rest) :
    finishInstruction o s = .done (s.executed o stop rest (s.dbgCount + 1)) := by
  obtain ⟨_, hanswers, hcount, _⟩ := afterExec_sees o hp
  refine finishInstruction_answered hp hd ?_
  rw [consultCallback_given (hanswers.trans ha), hcount]

/-- A callback whose answer the environment leaves open is asked on the index before its increment and on the registers
after the instruction (R214, R221, notes/assumptions/4.md). -/
theorem finishInstruction_free (hp : s.pstate = .executing) (hd : s.dbg = some cb) (ha : s.dbgAnswers = []) :
    finishInstruction o s = .done
      (s.executed o (!Config.callbackContinues cb s.instrIndex s.regs.view s.dbgCount) [] (s.dbgCount + 1)) := by
  obtain ⟨_, hanswers, hcount, hindex, hregs⟩ := afterExec_sees o hp
  refine finishInstruction_answered hp hd ?_
  rw [consultCallback_free (hanswers.trans ha), hcount, hindex, hregs]
  cases Config.callbackContinues cb s.instrIndex s.regs.view s.dbgCount <;> rfl

/-- A halting instruction ends in one state whatever the callback answers: the first cause wins (R30). -/
theorem executed_halt (s : State) (stop : Bool) (answers : List CallbackAnswer) (count : Nat) :
    s.executed .halt stop answers count = s.executed .halt false answers count := by
  simp [State.executed]

end Sys2Proof.Machine
end

section
/-! PROOF. The steps of the Processor (spec/43_processor.md R210, R213 to R216, R221 to R225). -/

namespace Sys2Proof.Machine

/-- Settles O28: each command is its effect in a quiet phase, and is refused while there is a worker. -/
theorem setupAndDebugCommands : Obligations.SetupAndDebugCommands := by
  intro s n
  exact ⟨fun hq => ⟨whenQuiet_quiet hq, whenQuiet_quiet hq, whenQuiet_quiet hq⟩,
    fun hq => ⟨⟨_, whenQuiet_busy hq⟩, ⟨_, whenQuiet_busy hq⟩, ⟨_, whenQuiet_busy hq⟩⟩⟩

/-- Settles O32: the three ways `DECODEI` can go, and the two decodings of `ILL2`. -/
theorem decodeiDecodes : Obligations.DecodeiDecodes := by
  refine ⟨fun s d => ⟨fun hp => ?halted, fun hp hd => ?decodes, fun hh hd => ⟨.outOfSequence, ?refused⟩⟩,
    fun b => rfl, rfl⟩
  all_goals rw [exec_decodei]
  case halted => rw [decodeRun_halted hp]; rfl
  case decodes => rw [decodeRun_decoding hp hd]; rfl
  case refused => rw [decodeRun_outOfSequence hh hd]; rfl

/-- Settles O33: `EXECI` on a decoded instruction is the end of its `Exec`, by the callback's answer; the `Exec` leaves
the callback and the environment's answers as they were. -/
theorem execiCompletesOrRaises : Obligations.ExeciCompletesOrRaises := by
  refine ⟨fun s d hp hd => ⟨fun s' o hr => ?ends, ?tree⟩, fun tree s s' c hp hr => ?raises, fun s d hp hd => ?decodes,
    fun s hp => ⟨.outOfSequence, ?refused⟩⟩
  case ends =>
    have kept := runTree_keeps_sequencer (targetExec d) s
    rw [hr] at kept
    obtain ⟨hpstate, hdbg, hanswers, hcount, hindex, _⟩ := kept
    have hp' : s'.pstate = .executing := hpstate.trans hp
    rw [exec_execi, execRun_executing hp hd, executeTree_ends hp hr, ← hdbg, ← hanswers, ← hcount, ← hindex]
    refine ⟨fun hn => ?unasked, fun cb rest hcb => ⟨fun ha => ?continues, fun ha => ?stops, fun ha => ?free⟩⟩
    case unasked => rw [finishInstruction_unasked hp' hn]; rfl
    case continues => rw [finishInstruction_given (stop := false) hp' hcb ha]; rfl
    case stops => rw [finishInstruction_given (stop := true) hp' hcb ha]; rfl
    case free => rw [finishInstruction_free hp' hcb ha]; rfl
  case tree => rw [exec_execi, execRun_executing hp hd]
  case raises => rw [executeTree_raised hp hr]; rfl
  case decodes => rw [exec_execi, exec_execi, execRun_decoding hp hd]
  case refused => rw [exec_execi, execRun_outOfSequence hp]; rfl

/-- `LDI A` with no callback: the accumulator written, and the instruction ended (R214, R223). -/
theorem exec_ldiA_unasked {s : State} {a : RegCell} (imm : Byte) (hp : s.pstate = .executing)
    (ha : s.regs.cell? .a = some a) (hw : a.width = .w8) (hd : s.dbg = none) :
    exec (.ldiA imm) s = .next
      ((s.withRegs (s.regs.setCell .a (imm.setWidth 64))).executed .cont false s.dbgAnswers s.dbgCount) := by
  have run : executeTree (ldiATree imm) s =
      finishInstruction .cont (s.withRegs (s.regs.setCell .a (imm.setWidth 64))) :=
    executeTree_ends hp (runTree_ldiA s imm a ha hw)
  have ended := finishInstruction_unasked (o := .cont) (s := s.withRegs (s.regs.setCell .a (imm.setWidth 64))) hp hd
  rw [exec_of_decodedOf (d := .ldiA imm) rfl, targetExec, run, ended]
  rfl

/-- `HLT` is the end of an instruction that has done nothing but halt (R224). -/
theorem exec_hlt_executing {s : State} (hp : s.pstate = .executing) :
    exec .hlt s = workerOutcome (finishInstruction .halt s) := by
  rw [exec_of_decodedOf (d := .hlt) rfl, targetExec, executeTree_ends hp rfl]

theorem exec_hlt_unasked {s : State} (hp : s.pstate = .executing) (hd : s.dbg = none) :
    exec .hlt s = .next (s.executed .halt false s.dbgAnswers s.dbgCount) := by
  rw [exec_hlt_executing hp, finishInstruction_unasked hp hd]
  rfl

/-- Settles O35: the `Exec` of each instruction, and its end with the callback's answer. -/
theorem loadImmediateAndHalt : Obligations.LoadImmediateAndHalt := by
  intro s imm a hp ha hw
  refine ⟨fun hd => ⟨exec_ldiA_unasked imm hp ha hw hd, exec_hlt_unasked hp hd⟩,
    fun cb answer rest hd hanswers hobeys => ?asked, fun hdec => ?ldiA, fun hdec => ?hlt⟩
  case asked =>
    obtain ⟨stop, rfl⟩ : ∃ stop, answer = CallbackAnswer.ofStop stop := by
      rcases hobeys with rfl | rfl
      · exact ⟨false, rfl⟩
      · exact ⟨true, rfl⟩
    rw [exec_hlt_executing hp, finishInstruction_given hp hd hanswers, executed_halt]
    rfl
  case ldiA => rw [exec_execi, execRun_executing hp hdec]; rfl
  case hlt => rw [exec_execi, execRun_executing hp hdec]; rfl

/-- `FETCHI`, `DECODEI` and `EXECI` of a halted Processor are ignored (R225). -/
theorem exec_halted {s : State} {i : Instr} (hp : s.pstate = .halted) (hs : s.setupDone = true)
    (hi : i = .fetchi ∨ i = .decodei ∨ i = .execi) : exec i s = .next s := by
  rcases hi with rfl | rfl | rfl
  · rw [exec_fetchi]; simp [fetchRun, hs, hp, workerOutcome]
  · rw [exec_decodei, decodeRun_halted hp]; rfl
  · rw [exec_execi, execRun_halted hp]; rfl

/-- Settles O36: each of the five is ignored, and a scheduled step of the worker is one of the first three on the rest
of the schedule. -/
theorem haltedProcessorExecutesNothing : Obligations.HaltedProcessorExecutesNothing := by
  intro s imm hp hs
  have ignored : ∀ {i d}, decodedOf i = some d → exec i s = .next s := fun h => by
    rw [exec_of_decodedOf h, executeTree_halted _ hp]; rfl
  refine ⟨exec_halted hp hs (.inl rfl), exec_halted hp hs (.inr (.inl rfl)), exec_halted hp hs (.inr (.inr rfl)),
    ignored rfl, ignored rfl, fun c rest i hd hi hport ha => ?_⟩
  have worker : workerOnly i = true := by rcases hi with rfl | rfl | rfl <;> rfl
  have turn : nextTurn s = .run i (s.withPort rest) :=
    (nextTurn_worker hport).trans
      ((workerTurn_part hd worker ((withPort_active s rest).trans ha)).trans (workerPart_halted hp))
  exact (step_of_run turn).trans (exec_halted hp hs hi)

end Sys2Proof.Machine
end

section
/-! SUPPORT. `ASM` and `DISASM` of `ILL2` (spec/30_encoding.md R103, 43_processor.md R217 to R219). -/

namespace Sys2Proof.Machine

variable {s : State} {t u : Text} {bytes : List Byte} {i : Instr}

/-! ### The commands by what the target answers -/

theorem exec_asm_bytes (h : targetAsm s.target t = .bytes bytes) :
    exec (.asm t) s = .next (s.answer (.bytes bytes)) := by
  change execAsm t s = _
  simp only [execAsm, h]

theorem exec_asm_unknownOpcode (h : targetAsm s.target t = .unknownOpcode u) :
    exec (.asm t) s = .next (s.report (.unknownOpcode u)) := by
  change execAsm t s = _
  simp only [execAsm, h]

theorem exec_asm_invalidOperand {expected actual : Text}
    (h : targetAsm s.target t = .invalidOperand expected actual) :
    exec (.asm t) s = .next (s.report (.invalidOperand expected actual)) := by
  change execAsm t s = _
  simp only [execAsm, h]

theorem exec_disasm_text (h : targetDisasm s.target bytes = .text t) :
    exec (.disasm bytes) s = .next (s.answer (.text t)) := by
  change execDisasm bytes s = _
  simp only [execDisasm, h]

theorem exec_disasm_unknownInstruction {b : Byte} (h : targetDisasm s.target bytes = .unknownInstruction b) :
    exec (.disasm bytes) s = .next (s.report (.unknownInstruction b)) := by
  change execDisasm bytes s = _
  simp only [execDisasm, h]

theorem exec_disasm_refused (h : targetDisasm s.target bytes = .notOneInstruction) :
    exec (.disasm bytes) s = .refused .notOneInstruction := by
  change execDisasm bytes s = _
  simp only [execDisasm, h]

/-! ### The instructions of `ILL2` -/

/-- The complete instructions of `ILL2` (R96). -/
theorem decodeStream_cases (h : decodeStream bytes = .ok i) :
    (∃ imm, bytes = [0x3E, imm] ∧ i = .ldiA imm) ∨ (bytes = [0x76] ∧ i = .hlt) := by
  have encoded := decodeStream_ok h
  cases i with
  | ldiA imm => cases encoded; exact .inl ⟨imm, rfl, rfl⟩
  | hlt => cases encoded; exact .inr ⟨rfl, rfl⟩
  | _ => cases encoded

/-! ### Hexadecimal digits -/

theorem hexValue?_hexDigit {n : Nat} (h : n < 16) : hexValue? (hexDigit n) = some n := by
  revert n
  decide

theorem hexDigit_ne_space {n : Nat} (h : n < 16) : hexDigit n ≠ ' ' := by
  revert n
  decide

/-- A text in which a character does not occur is not cut there. -/
theorem cutAt_not_mem {sep : Char} (h : sep ∉ t) : cutAt sep t = (t, none) := by
  induction t with
  | nil => rfl
  | cons c rest ih =>
    obtain ⟨hc, hrest⟩ := not_or.1 (mt List.mem_cons.2 h)
    simp only [cutAt, if_neg (Ne.symm hc), ih hrest]

/-- The immediate that two digits write. -/
theorem parseImm8_hexDigits {h l : Nat} (hh : h < 16) (hl : l < 16) :
    parseImm8 ['0', 'x', hexDigit h, hexDigit l] = some (BitVec.ofNat 8 (16 * h + l)) := by
  have isX : upperChar 'x' = 'X' := by decide
  simp only [parseImm8, isX, if_true, hexValue?_hexDigit hh, hexValue?_hexDigit hl]

/-! ### Assembling and disassembling -/

/-- The operands of `LDI`, with the immediate as two digits (R103). -/
theorem asmLdi_hexDigits {h l : Nat} (hh : h < 16) (hl : l < 16) :
    asmLdi ['A', ',', '0', 'x', hexDigit h, hexDigit l] = .bytes [0x3E, BitVec.ofNat 8 (16 * h + l)] := by
  have register : cutAt ',' ['A', ',', '0', 'x', hexDigit h, hexDigit l] =
      (['A'], some ['0', 'x', hexDigit h, hexDigit l]) := rfl
  have token : cutAt ' ' ['0', 'x', hexDigit h, hexDigit l] = (['0', 'x', hexDigit h, hexDigit l], none) := by
    refine cutAt_not_mem ?_
    simp [(hexDigit_ne_space hh).symm, (hexDigit_ne_space hl).symm]
  have noSpace : dropSpaces ['0', 'x', hexDigit h, hexDigit l] = ['0', 'x', hexDigit h, hexDigit l] := rfl
  have accumulator : upperText ['A'] = ['A'] := by decide
  simp only [asmLdi, register, accumulator, noSpace, token, parseImm8_hexDigits hh hl, ne_eq, not_true_eq_false,
    if_false]

/-- `Disasm` writes the immediate as its two digits, and `Asm` puts them together again (R103, R219). -/
theorem ill2Asm_of_ill2Disasm_ldiA (imm : Byte) :
    ∃ text, ill2Disasm [0x3E, imm] = .text text ∧ ill2Asm text = .bytes [0x3E, imm] := by
  have high : imm.toNat / 16 < 16 := by have := imm.isLt; omega
  have low : imm.toNat % 16 < 16 := by omega
  refine ⟨_, rfl, ?_⟩
  have mnemonic : ill2Asm
      ['L', 'D', 'I', ' ', 'A', ',', '0', 'x', hexDigit (imm.toNat / 16), hexDigit (imm.toNat % 16)] =
      asmLdi ['A', ',', '0', 'x', hexDigit (imm.toNat / 16), hexDigit (imm.toNat % 16)] := rfl
  rw [mnemonic, asmLdi_hexDigits high low, Nat.div_add_mod, BitVec.ofNat_toNat, BitVec.setWidth_eq]

/-- `Asm` gives back the bytes that `Disasm` has read (R219). -/
theorem ill2Asm_of_ill2Disasm (h : decodeStream bytes = .ok i) :
    ∃ text, ill2Disasm bytes = .text text ∧ ill2Asm text = .bytes bytes := by
  rcases decodeStream_cases h with ⟨imm, rfl, _⟩ | ⟨rfl, _⟩
  · exact ill2Asm_of_ill2Disasm_ldiA imm
  · exact ⟨['H', 'L', 'T'], rfl, by decide⟩

end Sys2Proof.Machine
end

section
/-! PROOF. `ASM` and `DISASM` (spec/43_processor.md R217 to R219). -/

namespace Sys2Proof.Machine

/-- Settles O38: the round trip of the target's functions, carried through the two responses. -/
theorem disasmThenAsmGivesTheBytes : Obligations.DisasmThenAsmGivesTheBytes := by
  intro s bytes i ht hd
  obtain ⟨text, hdis, hasm⟩ := ill2Asm_of_ill2Disasm hd
  have disassembled : targetDisasm s.target bytes = .text text := by rw [ht]; exact hdis
  have assembled : targetAsm (s.answer (.text text)).target text = .bytes bytes := by
    rw [answer_target, ht]; exact hasm
  exact ⟨text, _, _, exec_disasm_text disassembled, rfl, exec_asm_bytes assembled, rfl⟩

/-- Settles O39: each example is one answer of the target's `Asm` or `Disasm`, and the command is that answer. -/
theorem asmAndDisasmExamples : Obligations.AsmAndDisasmExamples := by
  intro s ht
  have asm : ∀ {text answer}, ill2Asm text = answer → targetAsm s.target text = answer := fun h => by rw [ht]; exact h
  have disasm : ∀ {bytes answer}, ill2Disasm bytes = answer → targetDisasm s.target bytes = answer :=
    fun h => by rw [ht]; exact h
  exact ⟨exec_asm_bytes (asm (by decide)), exec_asm_bytes (asm (by decide)),
    exec_asm_unknownOpcode (asm (by decide)), exec_asm_invalidOperand (asm (by decide)),
    exec_asm_invalidOperand (asm (by decide)), exec_asm_invalidOperand (asm (by decide)),
    exec_disasm_text (disasm (by decide)), exec_disasm_text (disasm (by decide)),
    exec_disasm_unknownInstruction (disasm (by decide)), ⟨_, exec_disasm_refused (disasm (by decide))⟩,
    ⟨_, exec_disasm_refused (disasm (by decide))⟩, ⟨_, exec_disasm_refused (disasm (by decide))⟩⟩

end Sys2Proof.Machine
end

section
/-! SUPPORT. A `WORKERSTEP` over one instruction of `ILL2` at the program counter (spec/43_processor.md R212 to R214,
44_engine.md R253, R260). -/

namespace Sys2Proof.Machine

variable {s : State} {bytes : List Byte} {i : Instr}

/-! ### Fetch and decode -/

/-- `FETCHI` over the bytes of one instruction consumes them (R212). -/
theorem fetchRun_bytes (hf : s.canFetch) (hr : s.registersFit) (hne : bytes ≠ [])
    (hlen : bytes.length ≤ targetMaxLen s.target) (hh : s.holdsAtPc bytes)
    (hmore : ∀ k, 0 < k → k < bytes.length → targetLenStep s.target (bytes.take k) = .more)
    (hdone : targetLenStep s.target bytes = .done) : fetchRun s = .done (s.consumed bytes .decoding) := by
  have ⟨_, _, hm⟩ := hf
  have loop := fetchLoop_bytes s hm bytes hh hmore (targetMaxLen s.target) 0 (List.length_pos_of_ne_nil hne) (by omega)
  rw [fetchRun_canFetch hf hr, ← List.take_zero (l := bytes)]
  exact loop.1 hdone

/-- What `LenStep` of `ILL2` says of the bytes of one instruction (R99). -/
theorem ill2LenStep_of_decodeStream (h : decodeStream bytes = .ok i) :
    bytes ≠ [] ∧ bytes.length ≤ ill2MaxLen ∧
      (∀ k, 0 < k → k < bytes.length → ill2LenStep (bytes.take k) = .more) ∧ ill2LenStep bytes = .done := by
  rcases decodeStream_cases h with ⟨imm, rfl, _⟩ | ⟨rfl, _⟩
  · refine ⟨by simp, le_refl 2, fun k h0 hk => ?_, rfl⟩
    obtain rfl : k = 1 := by simp at hk; omega
    rfl
  · exact ⟨by simp, by simp [ill2MaxLen], fun k h0 hk => by simp at hk; omega, rfl⟩

/-- `Decode` of `ILL2` is total on complete instructions (R222 (b)). -/
theorem targetDecode_of_decodeStream (h : decodeStream bytes = .ok i) :
    ∃ d, decodedOf i = some d ∧ targetDecode .ill2 bytes = some d := by
  rcases decodeStream_cases h with ⟨imm, rfl, rfl⟩ | ⟨rfl, rfl⟩ <;> exact ⟨_, rfl, rfl⟩

/-! ### The iteration -/

/-- A Processor about to fetch, whose worker is not asked to stop, takes a whole iteration (R253). -/
theorem execWorkerstep_iteration (ha : s.active = true) (hd : s.dying = false) (hf : s.canFetch) :
    execWorkerstep s = iteration s := by
  obtain ⟨_, hp, _⟩ := hf
  rcases hp with hp | hp <;> simp [execWorkerstep, exitsAtBoundary, State.inFlight, ha, hd, hp]

/-- An iteration over an instruction of `ILL2` is that instruction, fetched and decoded, and then the ticks (R253). -/
theorem execWorkerstep_fetched (h : decodeStream bytes = .ok i) (ha : s.active = true) (hd : s.dying = false)
    (hf : s.canFetch) (ht : s.target = .ill2) (hr : s.registersFit) (hh : s.holdsAtPc bytes) :
    execWorkerstep s = ticksAfter (exec i { s.consumed bytes .executing with decoded := decodedOf i }) := by
  obtain ⟨hne, hlen, hmore, hdone⟩ := ill2LenStep_of_decodeStream h
  obtain ⟨d, hi, hdecode⟩ := targetDecode_of_decodeStream h
  have fetched : fetchRun s = .done (s.consumed bytes .decoding) :=
    fetchRun_bytes hf hr hne (by rw [ht]; exact hlen) hh (by rw [ht]; exact hmore) (by rw [ht]; exact hdone)
  have decoded : targetDecode (s.consumed bytes .decoding).target (s.consumed bytes .decoding).ibuf = some d :=
    (congrArg (targetDecode · bytes) ht).trans hdecode
  rw [execWorkerstep_iteration ha hd hf, iteration, fetched]
  dsimp only
  rw [completeIteration, execRun_decoding rfl decoded, execRun_executing rfl rfl, exec_of_decodedOf hi, hi]
  rfl

/-- Ticks that return (R260, R335). -/
theorem ticksAfter_returning (ha : s.active = true) (hp : ∀ p ∈ s.periph, p.tick ≠ .neverReturns) :
    ticksAfter (.next s) = .next (ticked s) := by
  have returns : s.periph.all Periph.returns = true := by
    refine List.all_eq_true.2 fun p hmem => ?_
    simp [Periph.returns, hp p hmem]
  simp [ticksAfter, ha, tickAll, returns, workerOutcome]

end Sys2Proof.Machine
end

section
/-! PROOF. One `WORKERSTEP` over the instructions of `ILL2` (spec/43_processor.md R223, R224, 44_engine.md R253). -/

namespace Sys2Proof.Machine

/-- Settles O7: with nothing scheduled the worker's turn is an iteration, and that is the fetched instruction. -/
theorem stepRunsTheFetchedInstruction : Obligations.StepRunsTheFetchedInstruction := by
  intro s bytes i h hport ha hd hf ht hr hh
  have turn : step s = execWorkerstep s := step_of_run (nextTurn_unscheduled_worker hport ha)
  rw [turn, execWorkerstep_fetched h ha hd hf ht hr hh]

/-- Settles O46: the instruction on the state in which it has been fetched and decoded, and one tick of each
Peripheral. -/
theorem workerstepRunsIll2 : Obligations.WorkerstepRunsIll2 := by
  intro s a ha hd hf ht hr hcell hw hdbg hperiph
  refine ⟨fun imm hh => ?ldiA, fun hh => ?hlt⟩
  case ldiA =>
    have accumulator : ∃ a',
        (s.regs.setPc (BitVec.ofNat 64 (s.fetchAddress 2))).cell? .a = some a' ∧ a'.width = .w8 := by
      rw [RegFile.setPc, cell?_setCell, hcell]
      refine ⟨_, rfl, ?_⟩
      split <;> exact hw
    obtain ⟨a', hcell', hw'⟩ := accumulator
    have run := exec_ldiA_unasked
      (s := { s.consumed [0x3E, imm] .executing with decoded := decodedOf (.ldiA imm) }) imm rfl hcell' hw' hdbg
    rw [exec_workerstep, execWorkerstep_fetched (i := .ldiA imm) rfl ha hd hf ht hr hh, run]
    exact ticksAfter_returning ha hperiph
  case hlt =>
    have run := exec_hlt_unasked (s := { s.consumed [0x76] .executing with decoded := decodedOf .hlt }) rfl hdbg
    rw [exec_workerstep, execWorkerstep_fetched (i := .hlt) rfl ha hd hf ht hr hh, run]
    exact ticksAfter_returning ha hperiph

end Sys2Proof.Machine
end

section
/-! SUPPORT. What a step of the Processor leaves alone, where it ends and where it raises (spec/43_processor.md R212 to
R214, 60_exceptions.md R294). -/

namespace Sys2Proof.Machine

variable {s s' t : State} {c : Condition}

/-- The Peripherals, the callback's answers and count, the index and the halt cause are those of `s`. -/
structure State.SameRecord (s x : State) : Prop where
  periph : x.periph = s.periph
  count : x.dbgCount = s.dbgCount
  answers : x.dbgAnswers = s.dbgAnswers
  index : x.instrIndex = s.instrIndex
  cause : x.haltCause = s.haltCause

theorem State.SameRecord.trans {x y : State} (h : s.SameRecord x) (h' : x.SameRecord y) : s.SameRecord y :=
  ⟨h'.periph.trans h.periph, h'.count.trans h.count, h'.answers.trans h.answers, h'.index.trans h.index,
    h'.cause.trans h.cause⟩

/-- `FETCHI` leaves the record alone (R212). -/
theorem fetchRun_sameRecord (s : State) : (fetchRun s).Reached s.SameRecord s.SameRecord := by
  rcases fetchRun_cases s with ⟨_, h⟩ | ⟨_, _, h⟩ | ⟨_, _, h⟩ | ⟨_, _, h⟩ <;> rw [h]
  · trivial
  · exact ⟨rfl, rfl, rfl, rfl, rfl⟩
  · trivial
  · have frame := fetchLoop_frame (targetMaxLen s.target) (beginFetch s)
    cases hr : fetchLoop (targetMaxLen s.target) (beginFetch s) with
    | done x => rw [hr] at frame; rw [show x = _ from frame]; exact ⟨rfl, rfl, rfl, rfl, rfl⟩
    | raised x c => rw [hr] at frame; rw [show x = _ from frame]; exact ⟨rfl, rfl, rfl, rfl, rfl⟩
    | refused r => trivial
    | stuck f => trivial

/-- An `Exec` leaves the record alone (R222 (c)). -/
theorem runTree_sameRecord (tree : ExecTree) (s : State) : (runTree tree s).Reached s.SameRecord := by
  have frame := runTree_frame tree s
  cases hr : runTree tree s with
  | ends x o => rw [hr] at frame; rw [show x = _ from frame]; exact ⟨rfl, rfl, rfl, rfl, rfl⟩
  | raised x c => rw [hr] at frame; rw [show x = _ from frame]; exact ⟨rfl, rfl, rfl, rfl, rfl⟩
  | refused r => trivial
  | neverEnds => trivial

/-- An instruction that ends is no fault halt (R30, R214). -/
theorem executed_not_fault {o : ExecOutcome} {stop : Bool} {answers : List CallbackAnswer} {count : Nat}
    (h : (s.executed o stop answers count).haltCause = .fault) : s.haltCause = .fault := by
  cases o with
  | halt => simp [State.executed] at h
  | cont =>
    cases stop with
    | true => simp [State.executed] at h
    | false => simpa [State.executed] using h

/-- `EXECI` on a decoded instruction makes no fault halt of its own where it ends, and leaves the record alone where it
raises (R214). -/
theorem executeDecoded_record (s : State) :
    (executeDecoded s).Reached (fun x => x.haltCause = .fault → s.haltCause = .fault) s.SameRecord := by
  rcases executeDecoded_cases s with ⟨_, h⟩ | ⟨hp, d, _, h⟩ | ⟨_, _, h⟩ <;> rw [h]
  · exact id
  · have tree := runTree_sameRecord (targetExec d) s
    have sequencer := runTree_keeps_sequencer (targetExec d) s
    cases hr : runTree (targetExec d) s with
    | ends x o =>
      rw [hr] at tree sequencer
      obtain ⟨hx, _⟩ := sequencer
      rw [executeTree_ends hp hr]
      cases hf : finishInstruction o x with
      | done y =>
        obtain ⟨stop, answers, count, rfl⟩ := finishInstruction_executed (hx.trans hp) hf
        exact fun hy => tree.cause ▸ executed_not_fault hy
      | raised y c => exact absurd hf (finishInstruction_not_raised o x y c)
      | refused r => trivial
      | stuck f => trivial
    | raised x c =>
      rw [hr] at tree
      rw [executeTree_raised hp hr]
      exact tree
    | refused r => simp [executeTree, hp, hr, Run.Reached]
    | neverEnds => simp [executeTree, hp, hr, Run.Reached]
  · trivial

/-- The same of `EXECI` with the decoding it begins with (R214). -/
theorem execRun_record (s : State) :
    (execRun s).Reached (fun x => x.haltCause = .fault → s.haltCause = .fault) s.SameRecord := by
  rcases execRun_cases s with ⟨_, d, _, h⟩ | ⟨_, _, h⟩ | ⟨_, h⟩ <;> rw [h]
  · have record := executeDecoded_record { s with decoded := some d, pstate := .executing }
    generalize executeDecoded { s with decoded := some d, pstate := .executing } = r at record ⊢
    cases r with
    | done x => exact record
    | raised x c =>
      obtain ⟨hperiph, hcount, hanswers, hindex, hcause⟩ := record
      exact ⟨hperiph, hcount, hanswers, hindex, hcause⟩
    | refused r => trivial
    | stuck f => trivial
  · trivial
  · exact executeDecoded_record s

/-- The rest of an iteration that ends in a new fault halt is an `EXECI` that raised (R253, R294). -/
theorem completeIteration_fault (hs : s.haltCause ≠ .fault) (h : completeIteration s = .next t)
    (ht : t.haltCause = .fault) : ∃ s' c, execRun s = .raised s' c ∧ t = takeFault s' c ∧ s.SameRecord s' := by
  have record := execRun_record s
  rcases completeIteration_next h with ⟨s', c, hr, rfl⟩ | ⟨s', hr, hend⟩ <;> rw [hr] at record
  · exact ⟨s', c, hr, rfl, record⟩
  · have fault : s'.haltCause = .fault := by
      rcases hend with ⟨_, rfl⟩ | ⟨_, rfl⟩ <;> exact ht
    exact absurd (record fault) hs

/-- A `WORKERSTEP` that ends in a new fault halt: its `FETCHI` or its `EXECI` raised (R253, R294). -/
theorem execWorkerstep_fault (hs : s.haltCause ≠ .fault) (h : execWorkerstep s = .next t) (ht : t.haltCause = .fault) :
    ∃ s' c, t = takeFault s' c ∧ s.SameRecord s' ∧
      ((s.inFlight = false ∧ fetchRun s = .raised s' c) ∨
        (s.inFlight = false ∧ ∃ s₁, fetchRun s = .done s₁ ∧ execRun s₁ = .raised s' c) ∨
        (s.inFlight = true ∧ execRun s = .raised s' c)) := by
  rcases execWorkerstep_cases s with ⟨_, h'⟩ | ⟨_, hf, h'⟩ | ⟨_, _, _, h'⟩ | ⟨_, hf, _, h'⟩ <;> rw [h'] at h
  · cases h
  · obtain ⟨s', c, hr, rfl, record⟩ := completeIteration_fault hs h ht
    exact ⟨s', c, rfl, record, .inr (.inr ⟨hf, hr⟩)⟩
  · cases h
    exact absurd ht hs
  · have fetched := fetchRun_sameRecord s
    rcases iteration_next h with ⟨s', c, hr, rfl⟩ | ⟨s₁, hr, hrest⟩ <;> rw [hr] at fetched
    · exact ⟨s', c, rfl, fetched, .inl ⟨hf, hr⟩⟩
    · have hs₁ : s₁.haltCause ≠ .fault := fun h₁ => hs (fetched.cause.symm.trans h₁)
      obtain ⟨s', c, hr', rfl, record⟩ := completeIteration_fault hs₁ hrest ht
      exact ⟨s', c, rfl, fetched.trans record, .inr (.inl ⟨hf, s₁, hr, hr'⟩)⟩

end Sys2Proof.Machine
end

section
/-! PROOF. The fault halt of a `WORKERSTEP` (spec/44_engine.md R253, 60_exceptions.md R294). -/

namespace Sys2Proof.Machine

/-- Settles O48: a new fault halt is that of the operation that raised, and up to there the record is untouched. -/
theorem faultHaltSkipsTicksAndCallback : Obligations.FaultHaltSkipsTicksAndCallback := by
  intro s t hs h ht
  obtain ⟨s', c, rfl, record, raised⟩ := execWorkerstep_fault hs h ht
  exact ⟨rfl, rfl, rfl, rfl, record.periph, record.count, record.answers, record.index, s', c, takeFault_eq s' c, rfl,
    raised⟩

end Sys2Proof.Machine
end

section
/-! SUPPORT. What `BUILD` leaves of the Engine's own state (spec/44_engine.md R250, 60_exceptions.md R296). -/

namespace Sys2Proof.Machine

/-- A block that has been built, with no worker and no controller waiting in `STOP`: how `BUILD` leaves the Engine, after a
failure too (R250, R321). -/
structure State.BuiltIdle (s : State) : Prop where
  lifecycle : s.lifecycle = .idle
  blocked : s.blocked = false
  built : s.built = true

/-- No element of the layout starts the worker, whether it goes through or fails (R250). -/
theorem buildLoop_builtIdle {b : BuildArg} {s s' : State} {failed : Option Condition} (hwf : b.wf = true)
    (hl : buildLoop b.config (beginBuild b s) = .ok (s', failed)) : s'.BuiltIdle := by
  refine buildLoop_keeps (fun x c d _ _ ⟨hi, hq, hb⟩ => ⟨hi, hq, hb⟩) ?_ (fun x ⟨hi, hq, hb⟩ => ⟨hi, hq, hb⟩) b.config
    (beginBuild b s) (BuildArg.wf_parts hwf).1 ⟨rfl, rfl, rfl⟩ hl
  rintro x sp dev base size x' hr ⟨hi, hq, hb⟩
  obtain ⟨_, _, _, _, d, _, rfl⟩ := register_ok hr
  cases sp <;> exact ⟨hi, hq, hb⟩

end Sys2Proof.Machine
end

section
/-! PROOF. Every step keeps the Engine's bits consistent (spec/44_engine.md R251, R252, 60_exceptions.md R296). -/

namespace Sys2Proof.Machine

variable {i : Instr} {s t : State}

/-- While there is a worker the build has not failed (R251, R296). -/
theorem buildFailed_of_active (h : s.engineSound) (ha : s.active = true) : s.buildFailed = false := by
  obtain ⟨_, _, _, hfailed⟩ := h
  refine Bool.eq_false_iff.2 fun hf => ?_
  simp [State.active, hfailed hf] at ha

/-- In a quiet phase no controller waits in `STOP` (R252). -/
theorem not_blocked_of_quiet (h : s.engineSound) (hq : s.quiet = true) : s.blocked = false := by
  obtain ⟨hwait, _⟩ := h
  refine Bool.eq_false_iff.2 fun hb => ?_
  simp [State.quiet, hwait hb] at hq

/-- A run that has ended, of a block whose build has not failed (R257). -/
theorem engineSound_of_stopped (hl : s.lifecycle = .stopped) (hb : s.blocked = false) (hf : s.buildFailed = false) :
    s.engineSound := by
  simp [State.engineSound, hl, hb, hf]

/-- An `Idle` Engine that nobody waits for, the build failed or not (R296). -/
theorem engineSound_of_idle (hl : s.lifecycle = .idle) (hb : s.blocked = false) : s.engineSound := by
  simp [State.engineSound, hl, hb]

/-- The worker touches the Engine's bits where its run ends, and ends the wait of `STOP` there (R257, R294). -/
theorem WorkerMove.keep_engine (hm : WorkerMove s t) (h : s.engineSound) : t.engineSound := by
  cases hm with
  | fault c _ ha | exit _ ha =>
    have notFailed : s.buildFailed = false := buildFailed_of_active h ha
    exact engineSound_of_stopped rfl rfl notFailed
  | beginFetch | consume | endFetch | decode | writeReg | store | retire | tick => exact h

/-- Of the commands `BUILD`, `START` and `STOP` touch the Engine's bits (R250 to R252). -/
theorem CommandEffect.keep_engine (he : CommandEffect i s t) (h : s.engineSound) : t.engineSound := by
  cases he with
  | build r hb hwf hl =>
    obtain ⟨idle, unblocked, _⟩ := buildLoop_builtIdle hwf hl
    exact engineSound_of_idle idle unblocked
  | start hf hq => simp [State.engineSound, not_blocked_of_quiet h hq, hf]
  | stop hl =>
    have notFailed : s.buildFailed = false := buildFailed_of_active h (by simp [State.active, hl])
    simp [State.engineSound, notFailed]
  | wait hl =>
    obtain ⟨_, hstopping, hrunning, hfailed⟩ := h
    exact ⟨fun _ => hl, hstopping, hrunning, hfailed⟩
  | @register sp _ _ _ _ hr =>
    obtain ⟨_, _, _, _, d, _, rfl⟩ := register_ok hr
    cases sp <;> exact h
  | respond | store | load | writeReg | setup | reset | callback => exact h

/-- Settles O57: the worker's exit and the commands `BUILD`, `START` and `STOP` leave the bits consistent, and no other
move or effect touches them. -/
theorem stepKeepsTheEngine : Obligations.StepKeepsTheEngine :=
  fun _ _ => step_keeps (P := State.engineSound) (fun _ _ hs => hs) (fun _ _ => WorkerMove.keep_engine)
    (fun _ _ _ => CommandEffect.keep_engine)

end Sys2Proof.Machine
end

section
/-! SUPPORT. `BUILD` from its loop: what refuses it, what it leaves of a layout whose elements went through, and what it
reports (spec/44_engine.md R250, R296, 70_reset_and_hazards.md R321). -/

namespace Sys2Proof.Machine

variable {s t x y : State} {b : BuildArg} {failed : Option Condition}

/-! ### Refusals, and the outcome of the loop -/

/-- What a well-formed operand of `BUILD` says of the frequency and of the layout (R8, R250). -/
theorem BuildArg.wf_layout (h : b.wf = true) :
    0 < b.freqHz ∧ ∀ c ∈ b.config, c.wf b.awMem b.awIo = true := by
  simp only [BuildArg.wf, Bool.and_eq_true, List.all_eq_true, decide_eq_true_eq] at h
  obtain ⟨⟨⟨⟨_, frequency⟩, layout⟩, _⟩, _⟩ := h
  exact ⟨frequency, layout⟩

/-- A frequency that is not positive, or an element that is empty or leaves its space, is malformed (R250). -/
theorem BuildArg.wf_eq_false
    (h : b.freqHz ≤ 0 ∨ ∃ c ∈ b.config, c.size = 0 ∨ 2 ^ c.kind.space.width b.awMem b.awIo < c.base + c.size) :
    b.wf = false := by
  refine Bool.eq_false_iff.2 fun hwf => ?_
  obtain ⟨frequency, layout⟩ := BuildArg.wf_layout hwf
  rcases h with hf | ⟨c, hc, hrange⟩
  · exact absurd frequency (not_lt.2 hf)
  · have fits := layout c hc
    simp only [ConfigEntry.wf, Bool.and_eq_true, rangeFits_iff] at fits
    omega

/-- `BUILD` comes once, with an operand that is not malformed (R250, R299). -/
theorem exec_build_refused (h : s.built = true ∨ b.wf = false) : ∃ r, exec (.build b) s = .refused r := by
  by_cases hb : s.built = true
  · exact ⟨.alreadyBuilt, if_pos hb⟩
  · have hwf : b.wf = false := h.resolve_left hb
    exact ⟨.malformedConfig, by simp [exec, execBuild, hb, hwf]⟩

/-- `BUILD` from what its loop answers (R250). -/
theorem exec_build_of_loop (hb : s.built = false) (hwf : b.wf = true)
    (hl : buildLoop b.config (beginBuild b s) = .ok (x, failed)) :
    exec (.build b) s = .next { finishBuild b x with response := { cond := failed, value := .none } } := by
  simp only [exec, execBuild, hb, hwf, hl]
  cases failed <;> rfl

/-- The loop reports a condition in its answer, it never raises one (R250). -/
theorem buildLoop_not_raised (l : List ConfigEntry) (s : State) (c : Condition) : buildLoop l s ≠ .raise c := by
  induction l generalizing s with
  | nil => simp [buildLoop]
  | cons e rest ih =>
    unfold buildLoop
    split
    · simp
    · split
      · exact ih _
      · simp
      · simp

/-- A `BUILD` that goes on is the first, of a well-formed operand, and answers what its loop does (R250, R299). -/
theorem exec_build_next (h : exec (.build b) s = .next t) :
    b.wf = true ∧ ∃ x failed, buildLoop b.config (beginBuild b s) = .ok (x, failed) ∧
      t = { finishBuild b x with response := { cond := failed, value := .none } } := by
  have hb : s.built = false := by
    refine Bool.eq_false_iff.2 fun hb => ?_
    obtain ⟨r, refused⟩ := exec_build_refused (b := b) (.inl hb)
    cases refused.symm.trans h
  have hwf : b.wf = true := by
    refine Bool.eq_true_of_not_eq_false fun hwf => ?_
    obtain ⟨r, refused⟩ := exec_build_refused (s := s) (.inr hwf)
    cases refused.symm.trans h
  refine ⟨hwf, ?_⟩
  cases hl : buildLoop b.config (beginBuild b s) with
  | ok answer =>
    have outcome := exec_build_of_loop hb hwf hl
    exact ⟨answer.1, answer.2, rfl, by cases outcome.symm.trans h; rfl⟩
  | raise c => exact absurd hl (buildLoop_not_raised _ _ c)
  | refuse r => simp [exec, execBuild, hb, hwf, hl] at h

/-! ### What a failed build reports -/

/-- The conditions a failed build reports: an overlap, or initial contents longer than their Device (R296). -/
def FailsBuild (c : Condition) : Prop :=
  (∃ r r', c = .overlappingRegistration r r') ∨ ∃ size span, c = .outOfRange 0 size span

/-- Loading the initial contents fails only where they are longer than the Device (R138, R250). -/
theorem loadInitial_error {e : ConfigEntry} {d : Device} {c : Condition} (h : loadInitial e d = .error c) :
    FailsBuild c := by
  unfold loadInitial at h
  split at h
  · cases h
  · next bytes _ =>
    rcases d.load_cases bytes with ⟨_, hl⟩ | ⟨_, hl⟩ <;> rw [hl] at h <;> cases h
    exact .inr ⟨_, _, rfl⟩

/-- A registration leaves the mark of a failed build alone (R152). -/
theorem register_buildFailed {sp : Space} {dev base size : Nat} (h : register s sp dev base size = .ok t) :
    t.buildFailed = s.buildFailed := by
  obtain ⟨_, _, _, _, d, _, rfl⟩ := register_ok h
  cases sp <;> rfl

/-- The loop marks the build as failed exactly where it answers a condition, one of the two (R250, R296). -/
theorem buildLoop_failed (l : List ConfigEntry) :
    ∀ s : State, s.buildFailed = false → buildLoop l s = .ok (x, failed) →
      x.buildFailed = failed.isSome ∧ ∀ c, failed = some c → FailsBuild c := by
  induction l with
  | nil =>
    intro s hs h
    cases h
    exact ⟨hs, fun _ h => nomatch h⟩
  | cons e rest ih =>
    intro s hs h
    unfold buildLoop at h
    split at h
    · next cond hload =>
      cases h
      exact ⟨rfl, fun c hc => Option.some.inj hc ▸ loadInitial_error hload⟩
    · split at h
      · next hr => exact ih _ ((register_buildFailed hr).trans hs) h
      · next cond hr =>
        cases h
        obtain ⟨entry, _, hc⟩ := register_raise hr
        exact ⟨rfl, fun c h => Option.some.inj h ▸ .inl ⟨_, _, hc⟩⟩
      · cases h

/-! ### The register file of a schema -/

/-- Among distinct keys the first element with the key of a member is the member. -/
theorem find?_eq_of_nodup {α β : Type} [DecidableEq β] {key : α → β} {l : List α} {a : α} (hn : (l.map key).Nodup)
    (ha : a ∈ l) : l.find? (fun c => key c == key a) = some a := by
  cases hf : l.find? (fun c => key c == key a) with
  | none => exact absurd (List.find?_eq_none.1 hf a ha) (by simp)
  | some c =>
    have hkey : key c = key a := by simpa using List.find?_some hf
    rw [List.inj_on_of_nodup_map hn (List.mem_of_find?_eq_some hf) ha hkey]

/-- The names of the half registers are among the names the schema declares, in order (R190). -/
theorem ofSpec_halfNames_sublist (spec : RegSpec) :
    ((RegFile.ofSpec spec).halves.map HalfReg.name).Sublist (spec.decls.map RegDecl.name) := by
  obtain ⟨decls, pcName⟩ := spec
  simp only [RegFile.ofSpec]
  induction decls with
  | nil => exact .slnil
  | cons d decls ih =>
    cases d with
    | storage n w v => exact ih.cons n
    | half n q p => exact ih.cons_cons n

/-- A declared storage register is found under its name, at its reset value (R24, R190). -/
theorem cell?_ofSpec {spec : RegSpec} {n : RegName} {w : Width} {v : Word} (hn : spec.namesUnique = true)
    (hd : .storage n w v ∈ spec.decls) :
    (RegFile.ofSpec spec).cell? n = some { name := n, width := w, reset := v, val := v } := by
  have names := (ofSpec_names_sublist spec).nodup (of_decide_eq_true hn)
  exact cell?_of_mem (c := { name := n, width := w, reset := v, val := v }) names
    (List.mem_filterMap.2 ⟨_, hd, rfl⟩)

/-- A declared half register is found under its name (R190). -/
theorem half?_ofSpec {spec : RegSpec} {n q : RegName} {p : Part} (hn : spec.namesUnique = true)
    (hd : .half n q p ∈ spec.decls) :
    (RegFile.ofSpec spec).half? n = some { name := n, parent := q, part := p } := by
  have names := (ofSpec_halfNames_sublist spec).nodup (of_decide_eq_true hn)
  exact find?_eq_of_nodup (a := { name := n, parent := q, part := p }) names
    (List.mem_filterMap.2 ⟨_, hd, rfl⟩)

/-- The register file of a schema stands at its reset values already (R24, R211). -/
theorem resetAll_ofSpec (spec : RegSpec) : (RegFile.ofSpec spec).resetAll = RegFile.ofSpec spec := by
  have atReset : ∀ c ∈ (RegFile.ofSpec spec).cells, { c with val := c.reset } = c := by
    intro c hc
    obtain ⟨d, _, hmade⟩ := List.mem_filterMap.1 hc
    cases d with
    | storage n w v => cases hmade; rfl
    | half n q p => cases hmade
  have cells := List.map_congr_left atReset
  rw [List.map_id'] at cells
  rw [RegFile.resetAll, cells]

/-! ### The block after the loop -/

/-- Before the first element the loop has made nothing. -/
theorem loopDone_nil (b : BuildArg) (s : State) : LoopDone (beginBuild b s) (beginBuild b s) [] :=
  ⟨rfl, rfl, fun _ _ h => nomatch h⟩

/-- Elements that fit and do not overlap go through from the beginning of `BUILD` on (R250). -/
theorem buildLoop_through {l rest : List ConfigEntry} (s : State) (hwf : b.wf = true) (hc : b.config = l ++ rest)
    (hp : l.Pairwise compatibleElements) (hf : ∀ c ∈ l, contentsFit c) :
    ∃ x, LoopDone (beginBuild b s) x l ∧ buildLoop b.config (beginBuild b s) = buildLoop rest x := by
  have elements : ∀ c ∈ l, c.wf b.awMem b.awIo = true := fun c hm =>
    (BuildArg.wf_layout hwf).2 c (hc ▸ List.mem_append_left rest hm)
  obtain ⟨x, done, through⟩ := buildLoop_elements (s₀ := beginBuild b s) rfl l (loopDone_nil b s) elements hf hp
  exact ⟨x, done, hc ▸ through rest⟩

/-- The block `BUILD` leaves where its loop has gone through the elements `config` and has ended in `y`, with the Device
of a failed element, if there is one, and the mark of the failure (R250, R321). -/
theorem builtFrom_finishBuild {config : List ConfigEntry} {ds : List Device} (hwf : b.wf = true)
    (hx : LoopDone (beginBuild b s) x config) (hy : y = { x with devices := y.devices, buildFailed := y.buildFailed })
    (hds : y.devices = x.devices ++ ds) (r : Response) : s.BuiltFrom { finishBuild b y with response := r } b config := by
  obtain ⟨_, _, schema⟩ := BuildArg.wf_parts hwf
  simp only [RegSpec.wf, Bool.and_eq_true] at schema
  obtain ⟨⟨names, _⟩, _⟩ := schema
  have frame := hx.frame
  have regs : (finishBuild b y).regs = RegFile.ofSpec (Config.regSpecOf b.target) := resetAll_ofSpec _
  have devices : (finishBuild b y).devices = x.devices ++ (ds ++ b.spares.map newSpare) := by
    rw [← List.append_assoc, ← hds]; rfl
  rw [frame] at hy
  exact {
    elements := fun k c hk => holdsElement_append (hx.elements k c hk) devices
    memEntries := by rw [hy]; rfl
    ioEntries := by rw [hy]; rfl
    widths := by rw [hy]; exact ⟨rfl, rfl⟩
    target := rfl
    regs := regs
    storageRegisters := fun n w v hd => by
      have found := cell?_ofSpec names hd
      rwa [← regs] at found
    halfRegisters := fun n q p hd => by
      have found := half?_ofSpec names hd
      rwa [← regs] at found
    pcName := rfl
    processor := ⟨rfl, rfl, rfl, rfl, rfl, rfl⟩
    setup := ⟨rfl, rfl, rfl⟩
    callback := rfl
    engine := by rw [hy]; exact ⟨rfl, rfl, rfl, rfl⟩
    interval := clockInterval_eq (BuildArg.wf_layout hwf).1
    periph := rfl
    environment := by rw [hy]; exact ⟨rfl, rfl, rfl⟩ }

/-- A `BUILD` that fails at the element after `before` (R250, R296). -/
theorem exec_build_fails {before : List ConfigEntry} {d : Device} {c : Condition} (hb : s.built = false)
    (hwf : b.wf = true) (hx : LoopDone (beginBuild b s) x before)
    (hl : buildLoop b.config (beginBuild b s) = .ok ({ x.addDevice d with buildFailed := true }, some c)) :
    ∃ t, exec (.build b) s = .next t ∧ t.response = { cond := some c, value := .none } ∧ t.buildFailed = true ∧
      s.BuiltFrom t b before :=
  ⟨_, exec_build_of_loop hb hwf hl, rfl, rfl, builtFrom_finishBuild hwf hx rfl rfl _⟩

end Sys2Proof.Machine
end

section
/-! PROOF. `BUILD` constructs the block (spec/44_engine.md R250, 70_reset_and_hazards.md R321). -/

namespace Sys2Proof.Machine

/-- Settles O40: the whole layout goes through the loop, and what `BUILD` does after it is R321. -/
theorem buildConstructsTheBlock : Obligations.BuildConstructsTheBlock := by
  intro s b
  refine ⟨fun hb => exec_build_refused (.inl hb), fun h => exec_build_refused (.inr ?malformed),
    fun hb hwf hp hf => ?builds⟩
  case malformed =>
    rcases h with h | h | h
    · exact BuildArg.wf_eq_false (.inl h)
    · exact BuildArg.wf_eq_false (.inr h)
    · exact h
  case builds =>
    obtain ⟨x, done, through⟩ := buildLoop_through s hwf (List.append_nil b.config).symm hp hf
    refine ⟨_, exec_build_of_loop hb hwf through, rfl, ?devices, ?notFailed,
      builtFrom_finishBuild hwf done rfl (List.append_nil _).symm _⟩
    case devices => exact (List.length_append).trans (by rw [done.length, List.length_map])
    case notFailed => exact congrArg State.buildFailed done.frame

end Sys2Proof.Machine
end

section
/-! PROOF. A failed build prevents `START` (spec/44_engine.md R251, 60_exceptions.md R296). -/

namespace Sys2Proof.Machine

variable {i : Instr} {s t : State}

/-- A built block whose build has failed, with no worker (R296). -/
structure State.BuildHasFailed (s : State) : Prop where
  built : s.built = true
  failed : s.buildFailed = true
  idle : s.lifecycle = .idle

/-- In `Idle` there is no worker (R253). -/
theorem not_active_of_idle (h : s.lifecycle = .idle) : s.active = false := by
  simp [State.active, h]

/-- The moves that end a run are those of a worker, and there is none (R251). -/
theorem WorkerMove.keep_buildFailed (hm : WorkerMove s t) (h : s.BuildHasFailed) : t.BuildHasFailed := by
  obtain ⟨hb, hf, hl⟩ := h
  cases hm with
  | fault c _ ha | exit _ ha => cases (not_active_of_idle hl).symm.trans ha
  | beginFetch | consume | endFetch | decode | writeReg | store | retire | tick => exact ⟨hb, hf, hl⟩

/-- `BUILD` is not of a built block, `START` has no effect, and `STOP` is of a worker (R251, R252, R299). -/
theorem CommandEffect.keep_buildFailed (he : CommandEffect i s t) (h : s.BuildHasFailed) : t.BuildHasFailed := by
  obtain ⟨hb, hf, hl⟩ := h
  cases he with
  | build r hb' => cases hb.symm.trans hb'
  | start hf' => cases hf.symm.trans hf'
  | stop hl' => cases hl.symm.trans hl'
  | @register sp _ _ _ _ hr =>
    obtain ⟨_, _, _, _, d, _, rfl⟩ := register_ok hr
    cases sp <;> exact ⟨hb, hf, hl⟩
  | respond | store | load | writeReg | setup | reset | callback | wait => exact ⟨hb, hf, hl⟩

/-- `START` after a failed build (R251). -/
theorem exec_start_failed (h : s.buildFailed = true) : exec .start s = .next (s.answer .none) := if_pos h

/-- Settles O41: the loop goes through the elements before the failing one and stops there; what it answers marks the
build, and no later step touches the mark. -/
theorem failedBuildPreventsStart : Obligations.FailedBuildPreventsStart := by
  refine ⟨fun s b before rest c hb hwf hc hp hf => ?layout, fun s t b h => ?reports, fun s => exec_start_failed,
    fun s t hb hf hl h => ?kept⟩
  case layout =>
    obtain ⟨x, done, through⟩ := buildLoop_through s hwf hc hp hf
    refine ⟨fun l hl hlong => ?tooLong, fun l₁ l₂ e hfit hentries hfirst hoverlap => ?overlap⟩
    case tooLong => exact exec_build_fails hb hwf done (through.trans (buildLoop_tooLong hl hlong rest x))
    case overlap =>
      have element : c.wf b.awMem b.awIo = true := (BuildArg.wf_layout hwf).2 c (by simp [hc])
      obtain ⟨d, stops⟩ := buildLoop_overlap done rfl element hfit hentries
        (fun e' he' => Bool.eq_false_iff.2 fun h => hfirst e' he' (RouterEntry.overlaps_iff.1 h))
        (RouterEntry.overlaps_iff.2 hoverlap) rest
      exact exec_build_fails hb hwf done (through.trans stops)
  case reports =>
    obtain ⟨hwf, x, failed, hl, rfl⟩ := exec_build_next h
    obtain ⟨idle, _, built⟩ := buildLoop_builtIdle hwf hl
    obtain ⟨mark, condition⟩ := buildLoop_failed b.config (beginBuild b s) rfl hl
    have marked : (finishBuild b x).buildFailed = failed.isSome := mark
    exact ⟨built, by rw [← marked], idle, condition⟩
  case kept =>
    obtain ⟨built, failed, idle⟩ : t.BuildHasFailed :=
      step_keeps (fun _ _ ⟨hb, hf, hl⟩ => ⟨hb, hf, hl⟩) (fun _ _ => WorkerMove.keep_buildFailed)
        (fun _ _ _ => CommandEffect.keep_buildFailed) ⟨hb, hf, hl⟩ h
    exact ⟨built, failed, idle⟩

end Sys2Proof.Machine
end

section
/-! SUPPORT. An instruction and the Engine's own state: no access of an `Exec`, no decoding and no end of an instruction
reads or writes the lifecycle, the dying flag, the wait of `STOP` or a Peripheral (spec/44_engine.md R258, R260). -/

namespace Sys2Proof.Machine

variable {s e x : State}

/-- State `s` with the Engine's own state taken from `e`. -/
def State.engineOnto (e s : State) : State :=
  { s with lifecycle := e.lifecycle, dying := e.dying, blocked := e.blocked, periph := e.periph }

/-! ### The functions that run an instruction commute with it -/

theorem routerRead_engineOnto (e s : State) (sp : Space) (a : Nat) (w : Width) :
    routerRead (e.engineOnto s) sp a w = routerRead s sp a w := by
  cases sp <;> rfl

theorem routerWrite_engineOnto (e s : State) (sp : Space) (a : Nat) (w : Width) (v : Word) :
    routerWrite (e.engineOnto s) sp a w v = (routerWrite s sp a w v).map e.engineOnto := by
  have routed : route (e.engineOnto s) sp a w = route s sp a w := by cases sp <;> rfl
  simp only [routerWrite, routed]
  cases route s sp a w with
  | ok t => dsimp only; cases t.device.write t.off w v <;> rfl
  | raise c => rfl
  | refuse r => rfl

theorem writeRegisterExact_engineOnto (e s : State) (r : RegName) (v : Word) :
    writeRegisterExact (e.engineOnto s) r v = (writeRegisterExact s r v).map e.engineOnto := by
  have regs : (e.engineOnto s).regs = s.regs := rfl
  simp only [writeRegisterExact, regs]
  cases s.regs.width? r with
  | none => rfl
  | some w =>
    by_cases hv : v.toNat < 2 ^ w.bits
    · simp only [hv, if_true]
      cases s.regs.write r v <;> rfl
    · simp only [hv, if_false, Option.map_none]

theorem runTree_engineOnto (e : State) (t : ExecTree) (s : State) :
    runTree t (e.engineOnto s) = (runTree t s).map e.engineOnto := by
  have space : ∀ x sp, (e.engineOnto x).spaceOf sp = x.spaceOf sp := fun _ sp => by cases sp <;> rfl
  have regs : ∀ x, (e.engineOnto x).regs = x.regs := fun _ => rfl
  induction t generalizing s with
  | ends o => rfl
  | neverEnds => rfl
  | readReg r k ih =>
    simp only [runTree, regs]
    cases s.regs.read r with
    | none => rfl
    | some v => exact ih v s
  | writeReg r v k ih =>
    simp only [runTree, writeRegisterExact_engineOnto]
    cases writeRegisterExact s r v with
    | none => rfl
    | some x => exact ih x
  | read sp a w k ih =>
    simp only [runTree, space, routerRead_engineOnto]
    cases routerRead s (s.spaceOf sp) a w with
    | ok v => exact ih v s
    | raise c => rfl
    | refuse r => rfl
  | write sp a w v k ih =>
    simp only [runTree, space, routerWrite_engineOnto]
    cases routerWrite s (s.spaceOf sp) a w v with
    | ok x => exact ih x
    | raise c => rfl
    | refuse r => rfl

theorem haltWith_engineOnto (e : State) (cause : HaltCause) (s : State) :
    haltWith cause (e.engineOnto s) = e.engineOnto (haltWith cause s) :=
  (apply_ite e.engineOnto (s.pstate = .halted) s { s with pstate := .halted, haltCause := cause }).symm

theorem afterExec_engineOnto (e : State) (o : ExecOutcome) (s : State) :
    afterExec o (e.engineOnto s) = e.engineOnto (afterExec o s) := by
  cases o with
  | cont => rfl
  | halt => exact haltWith_engineOnto e .haltInstruction { s with ibuf := [], decoded := none }

theorem callbackStep_engineOnto (e s : State) :
    callbackStep (e.engineOnto s) = (callbackStep s).map e.engineOnto := by
  have installed : (e.engineOnto s).dbg = s.dbg := rfl
  have consulted : ∀ cb, consultCallback cb (e.engineOnto s) =
      ((consultCallback cb s).1, e.engineOnto (consultCallback cb s).2) := by
    intro cb
    have answers : (e.engineOnto s).dbgAnswers = s.dbgAnswers := rfl
    simp only [consultCallback, answers]
    cases s.dbgAnswers <;> rfl
  simp only [callbackStep, installed]
  cases s.dbg with
  | none => rfl
  | some cb =>
    simp only [consulted]
    obtain ⟨answer, x⟩ := consultCallback cb s
    cases answer with
    | stops => exact congrArg Run.done (haltWith_engineOnto e .debugRequested x)
    | continues | issuesStart | issuesStop | neverReturns => rfl

/-- The end of an instruction is the callback step and, where that ends, the count (R214). -/
theorem finishInstruction_eq_map (o : ExecOutcome) (s : State) :
    finishInstruction o s = (callbackStep (afterExec o s)).map countInstruction := by
  have counted : finishInstruction o s = match callbackStep (afterExec o s) with
      | .done y => .done (countInstruction y)
      | .raised y c => .raised y c
      | .refused r => .refused r
      | .stuck f => .stuck f := by cases o <;> rfl
  rw [counted]
  cases hc : callbackStep (afterExec o s) with
  | raised y c => exact absurd hc (callbackStep_not_raised _ y c)
  | done | refused | stuck => rfl

theorem finishInstruction_engineOnto (e : State) (o : ExecOutcome) (s : State) :
    finishInstruction o (e.engineOnto s) = (finishInstruction o s).map e.engineOnto := by
  rw [finishInstruction_eq_map, finishInstruction_eq_map, afterExec_engineOnto, callbackStep_engineOnto]
  cases callbackStep (afterExec o s) <;> rfl

theorem executeDecoded_engineOnto (e s : State) :
    executeDecoded (e.engineOnto s) = (executeDecoded s).map e.engineOnto := by
  have sequencer : (e.engineOnto s).pstate = s.pstate ∧ (e.engineOnto s).decoded = s.decoded := ⟨rfl, rfl⟩
  simp only [executeDecoded, executeTree, sequencer, runTree_engineOnto]
  cases s.pstate with
  | executing =>
    cases s.decoded with
    | none => rfl
    | some d =>
      dsimp only
      cases runTree (targetExec d) s with
      | ends x o => exact finishInstruction_engineOnto e o x
      | raised x c => rfl
      | refused r => rfl
      | neverEnds => rfl
  | reset | fetching | decoding | halted => rfl

/-- `EXECI` does the same whatever the Engine's state, and leaves it alone (R214, R258). -/
theorem execRun_engineOnto (e s : State) : execRun (e.engineOnto s) = (execRun s).map e.engineOnto := by
  have decoding : (e.engineOnto s).pstate = s.pstate ∧ (e.engineOnto s).target = s.target ∧
      (e.engineOnto s).ibuf = s.ibuf := ⟨rfl, rfl, rfl⟩
  rcases execRun_cases s with ⟨hp, d, hd, h⟩ | ⟨hp, hd, h⟩ | ⟨hp, h⟩ <;> rw [h]
  · rw [← executeDecoded_engineOnto]
    simp only [execRun, decodeRun, decoding, hp, hd, if_true]
    rfl
  · simp [execRun, decodeRun, decoding, hp, hd, Run.map]
  · rw [← executeDecoded_engineOnto]
    exact if_neg hp

/-- The Engine's state after an `EXECI` that ended is the one before it (R214, R258). -/
theorem execRun_keeps_engine (h : execRun s = .done x) :
    x.lifecycle = s.lifecycle ∧ x.dying = s.dying ∧ x.blocked = s.blocked ∧ x.periph = s.periph := by
  have own : execRun s = (execRun s).map s.engineOnto := execRun_engineOnto s s
  rw [h] at own
  have kept : x = s.engineOnto x := Run.done.inj own
  rw [kept]
  exact ⟨rfl, rfl, rfl, rfl⟩

end Sys2Proof.Machine
end

section
/-! SUPPORT. A `WORKERSTEP` from its parts: the exit at the boundary, the `FETCHI` it begins with, and the rest of an
iteration as `EXECI` and the ticks (spec/44_engine.md R253, R257, R260, 60_exceptions.md R294). -/

namespace Sys2Proof.Machine

variable {s s₁ s₂ : State}

/-! ### The exit -/

theorem active_of_running (h : s.lifecycle = .running) : s.active = true := by simp [State.active, h]

theorem active_of_stopping (h : s.lifecycle = .stopping) : s.active = true := by simp [State.active, h]

/-- The worker exits at a boundary where it finds the dying flag or a halted Processor (R253). -/
theorem exec_workerstep_exit (ha : s.active = true) (hf : s.inFlight = false)
    (hx : s.dying = true ∨ s.pstate = .halted) : exec .workerstep s = .next (workerExit s) := by
  have exits : exitsAtBoundary s = true := by rcases hx with hx | hx <;> simp [exitsAtBoundary, hf, hx]
  rw [exec_workerstep]
  simp [execWorkerstep, ha, hf, exits]

/-- With an instruction in flight the worker completes it, whatever the flag (R258). -/
theorem exec_workerstep_inFlight (ha : s.active = true) (hf : s.inFlight = true) :
    exec .workerstep s = completeIteration s := by
  rw [exec_workerstep]
  simp [execWorkerstep, ha, hf]

/-- Past the boundary the worker takes an iteration (R253). -/
theorem exec_workerstep_iteration (ha : s.active = true) (hf : s.inFlight = false) (hd : s.dying = false)
    (hp : s.pstate ≠ .halted) : exec .workerstep s = iteration s := by
  rw [exec_workerstep]
  simp [execWorkerstep, exitsAtBoundary, ha, hf, hd, hp]

/-! ### The ticks -/

/-- Where there is no worker any more, no tick follows (R294). -/
theorem ticksAfter_inactive (ha : s.active = false) : ticksAfter (.next s) = .next s := by
  simp [ticksAfter, ha]

/-- A tick that does not return leaves no further step (R335). -/
theorem ticksAfter_stuck (ha : s.active = true) (hp : ∃ p ∈ s.periph, p.tick = .neverReturns) :
    ticksAfter (.next s) = .fault .tickNeverReturns := by
  obtain ⟨p, hmem, hp⟩ := hp
  have stuck : s.periph.all Periph.returns = false :=
    List.all_eq_false.2 ⟨p, hmem, by simp [Periph.returns, hp]⟩
  simp [ticksAfter, ha, tickAll, stuck, workerOutcome]

/-! ### `FETCHI` and `EXECI` in an iteration -/

/-- A `FETCHI` that goes on finds no instruction in flight (R212). -/
theorem inFlight_of_exec_fetchi (h : exec .fetchi s = .next s₁) : s.inFlight = false := by
  refine Bool.eq_false_iff.2 fun hf => ?_
  have inside : s.pstate = .decoding ∨ s.pstate = .executing := by simpa [State.inFlight] using hf
  obtain ⟨r, refused⟩ := exec_fetchi_refused (.inr inside)
  cases refused.symm.trans h

/-- A `FETCHI` that goes on ends the iteration in a fault halt, or the rest of the iteration follows it (R253, R294). -/
theorem iteration_of_exec_fetchi (hs : s.haltCause ≠ .fault) (ha : s.active = true) (h : exec .fetchi s = .next s₁) :
    (s₁.haltCause = .fault ∧ iteration s = .next s₁) ∨
    (s₁.haltCause ≠ .fault ∧ s₁.active = true ∧ s₁.periph = s.periph ∧ iteration s = completeIteration s₁) := by
  have moves := fetchRun_moves ha
  have record := fetchRun_sameRecord s
  rw [exec_fetchi] at h
  rcases workerOutcome_next h with hr | ⟨x, c, hr, rfl⟩
  · rw [hr] at moves record
    obtain ⟨_, active⟩ := moves
    exact .inr ⟨fun hf => hs (record.cause.symm.trans hf), active, record.periph, by simp only [iteration, hr]⟩
  · exact .inl ⟨rfl, by simp only [iteration, hr]⟩

/-- An `EXECI` that goes on is a fault halt, after which there is no worker, or it ends and leaves the Engine as it was
(R214, R294). -/
theorem exec_execi_next (hs : s.haltCause ≠ .fault) (h : exec .execi s = .next s₂) :
    (s₂.haltCause = .fault ∧ s₂.active = false) ∨
    (s₂.haltCause ≠ .fault ∧ s₂.active = s.active ∧ s₂.periph = s.periph) := by
  have record := execRun_record s
  rw [exec_execi] at h
  rcases workerOutcome_next h with hr | ⟨x, c, hr, rfl⟩
  · rw [hr] at record
    obtain ⟨lifecycle, _, _, periph⟩ := execRun_keeps_engine hr
    exact .inr ⟨fun hf => hs (record hf), by simp only [State.active, lifecycle], periph⟩
  · exact .inl ⟨rfl, rfl⟩

/-- The rest of an iteration is `EXECI`, and after it one tick of each Peripheral unless it ends in a fault halt (R253,
R260, R294, R335). -/
theorem completeIteration_of_exec_execi (hs : s.haltCause ≠ .fault) (ha : s.active = true)
    (h : exec .execi s = .next s₂) :
    (s₂.haltCause = .fault → completeIteration s = .next s₂) ∧
    (s₂.haltCause ≠ .fault → (∀ p ∈ s.periph, p.tick ≠ .neverReturns) →
      completeIteration s = .next { s₂ with periph := s₂.periph.map tickOne }) ∧
    (s₂.haltCause ≠ .fault → (∃ p ∈ s.periph, p.tick = .neverReturns) →
      completeIteration s = .fault .tickNeverReturns) := by
  have rest : completeIteration s = ticksAfter (.next s₂) := congrArg ticksAfter h
  rw [rest]
  rcases exec_execi_next hs h with ⟨hf, hi⟩ | ⟨hf, hi, hp⟩
  · exact ⟨fun _ => ticksAfter_inactive hi, absurd hf, absurd hf⟩
  · rw [← hp]
    exact ⟨fun h => absurd h hf, fun _ => ticksAfter_returning (hi.trans ha), fun _ => ticksAfter_stuck (hi.trans ha)⟩

/-- An `EXECI` that ends has no instruction in flight after it (R214, R220). -/
theorem execRun_done_inFlight (h : execRun s = .done s₁) : s₁.inFlight = false := by
  have ended : ∀ x, executeDecoded x = .done s₁ → s₁.inFlight = false := by
    intro x hx
    rcases executeDecoded_cases x with ⟨hp, h'⟩ | ⟨hp, d, _, h'⟩ | ⟨_, _, h'⟩ <;> rw [h'] at hx
    · cases hx
      simp [State.inFlight, hp]
    · have sequencer := runTree_keeps_sequencer (targetExec d) x
      rcases executeTree_cases (targetExec d) x with ⟨hh, _⟩ | ⟨_, y, o, hr, ht⟩ | ⟨_, y, c, _, ht⟩ | ⟨_, r, _, ht⟩ |
        ⟨_, _, ht⟩ | ⟨_, hne, _⟩
      · cases hh.symm.trans hp
      · rw [hr] at sequencer
        obtain ⟨kept, _⟩ := sequencer
        obtain ⟨stop, answers, count, rfl⟩ := finishInstruction_executed (kept.trans hp) (ht.symm.trans hx)
        cases o <;> cases stop <;> rfl
      · cases ht.symm.trans hx
      · cases ht.symm.trans hx
      · cases ht.symm.trans hx
      · exact absurd hp hne
    · cases hx
  rcases execRun_cases s with ⟨_, d, _, h'⟩ | ⟨_, _, h'⟩ | ⟨_, h'⟩ <;> rw [h'] at h
  · exact ended _ h
  · cases h
  · exact ended _ h

end Sys2Proof.Machine
end

section
/-! PROOF. `WORKERSTEP` is `FETCHI`, `EXECI` and the ticks (spec/44_engine.md R253, R260). -/

namespace Sys2Proof.Machine

/-- Settles O47: past the boundary by the `FETCHI`, in flight at once, the rest of the iteration is `EXECI` and the
ticks. -/
theorem workerstepIsFetchExecuteTick : Obligations.WorkerstepIsFetchExecuteTick := by
  intro s s₁ hh ha hbegin
  have running : s.pstate ≠ .halted → s.haltCause ≠ .fault := fun hp => by simp [(haltRecorded_running hh hp).1]
  rcases hbegin with ⟨hd, hp, hfetch⟩ | ⟨hp, rfl⟩
  · rw [exec_workerstep_iteration ha (inFlight_of_exec_fetchi hfetch) hd hp]
    rcases iteration_of_exec_fetchi (running hp) ha hfetch with ⟨hf, fault⟩ | ⟨hf, hactive, hperiph, rest⟩
    · exact ⟨fun _ => fault, absurd hf⟩
    · rw [rest, ← hperiph]
      exact ⟨fun h => absurd h hf, fun _ _ => completeIteration_of_exec_execi hf hactive⟩
  · have hs : s₁.haltCause ≠ .fault := running (by rcases hp with hp | hp <;> simp [hp])
    rw [exec_workerstep_inFlight ha (by simpa [State.inFlight] using hp)]
    exact ⟨fun h => absurd h hs, fun _ _ => completeIteration_of_exec_execi hs ha⟩

end Sys2Proof.Machine
end

section
/-! PROOF. `STOP` ends the run at the boundary (spec/44_engine.md R252, R258, R259). -/

namespace Sys2Proof.Machine

variable {s u : State}

/-- A running worker that has been asked to stop, with the controller waiting for its exit (R252). -/
def State.stopRequested (s : State) : State := { s with dying := true, lifecycle := .stopping, blocked := true }

theorem exec_stop_running (h : s.lifecycle = .running) : exec .stop s = .next s.stopRequested := by
  simp only [exec, execStop, h]
  rfl

/-- The exit of a worker asked to stop answers the controller that waits for it (R252, R257). -/
theorem exec_workerstep_stopRequested (hf : s.inFlight = false) :
    exec .workerstep s.stopRequested = .next
      { s with
        lifecycle := .stopped, dying := true, blocked := false, response := { cond := none, value := .none } } :=
  exec_workerstep_exit (active_of_stopping rfl) hf (.inl rfl)

/-- The rest of an iteration that ends without a fault halt is an `EXECI` that ended, and ticks that returned (R253). -/
theorem completeIteration_no_fault (ha : s.active = true) (h : completeIteration s = .next u)
    (hu : u.haltCause ≠ .fault) :
    ∃ x, execRun s = .done x ∧ (∀ p ∈ x.periph, p.tick ≠ .neverReturns) ∧ u = ticked x := by
  obtain ⟨x, hx, hend⟩ := ticksAfter_next h
  rcases workerOutcome_next hx with hr | ⟨y, c, _, rfl⟩
  · obtain ⟨lifecycle, _⟩ := execRun_keeps_engine hr
    have active : x.active = true := by simpa only [State.active, lifecycle] using ha
    rcases hend with ⟨inactive, _⟩ | ⟨_, returns, rfl⟩
    · cases inactive.symm.trans active
    · exact ⟨x, hr, fun p hp => by simpa [Periph.returns] using List.all_eq_true.1 returns p hp, rfl⟩
  · rcases hend with ⟨_, rfl⟩ | ⟨_, _, rfl⟩ <;> exact absurd rfl hu

/-- An instruction in flight completes after `STOP` as without it, with its ticks (R258). -/
theorem completeIteration_stopRequested (ha : s.active = true) (h : completeIteration s = .next u)
    (hu : u.haltCause ≠ .fault) : completeIteration s.stopRequested = .next u.stopRequested := by
  obtain ⟨x, hr, returns, rfl⟩ := completeIteration_no_fault ha h hu
  obtain ⟨_, _, _, periph⟩ := execRun_keeps_engine hr
  have requested : s.stopRequested.engineOnto x = x.stopRequested := by
    simp [State.engineOnto, State.stopRequested, periph]
  have run : execRun s.stopRequested = .done x.stopRequested := by
    rw [← requested, show s.stopRequested = s.stopRequested.engineOnto s from rfl, execRun_engineOnto, hr]
    rfl
  rw [completeIteration, run]
  exact ticksAfter_returning (active_of_stopping rfl) returns

/-- Settles O44: at a boundary the request is found at once; in flight the instruction ignores it, and the boundary
after it finds it. -/
theorem stopEndsTheRunAtTheBoundary : Obligations.StopEndsTheRunAtTheBoundary := by
  intro s hl
  have ha := active_of_running hl
  refine ⟨fun hf => ?boundary, fun hf => ?inFlight⟩
  case boundary =>
    refine ⟨_, _, exec_stop_running hl, exec_workerstep_stopRequested hf, rfl, fun hc => ?_⟩
    simp [State.stopReport, hc]
  case inFlight =>
    refine ⟨_, exec_stop_running hl, fun u h hu => ?_⟩
    rw [exec_workerstep_inFlight ha hf] at h
    obtain ⟨x, hr, _, rfl⟩ := completeIteration_no_fault ha h hu
    have ended : x.inFlight = false := execRun_done_inFlight hr
    have completes : exec .workerstep s.stopRequested = completeIteration s.stopRequested :=
      exec_workerstep_inFlight (active_of_stopping rfl) hf
    exact ⟨completes.trans (completeIteration_stopRequested ha h hu), exec_workerstep_stopRequested (s := ticked x) ended⟩

end Sys2Proof.Machine
end

section
/-! PROOF. `START`, `STOP`, the hooks, the exit of the worker and the stop report (spec/44_engine.md R251 to R259). -/

namespace Sys2Proof.Machine

variable {s : State}

theorem quiet_iff : s.quiet = true ↔ s.lifecycle = .idle ∨ s.lifecycle = .stopped := by
  simp [State.quiet]

/-- There is a worker exactly outside the quiet phases (R253, R299). -/
theorem quiet_eq_not_active (s : State) : s.quiet = !s.active := by
  simp only [State.quiet, State.active]
  cases s.lifecycle <;> rfl

/-- `START` in a quiet phase of a block whose build has not failed (R251). -/
theorem exec_start_quiet (hf : s.buildFailed = false) (hq : s.quiet = true) :
    exec .start s = .next ((startWorker s).answer .none) := by
  simp [exec, execStart, hf, hq]

/-- `START` while there is a worker (R251). -/
theorem exec_start_active (ha : s.active = true) : exec .start s = .next (s.answer .none) := by
  simp [exec, execStart, quiet_eq_not_active, ha]

/-- Settles O42: `START` is without effect after a failed build and while there is a worker, and else starts one, whose
turn it is where nothing is scheduled. -/
theorem startStartsTheWorker : Obligations.StartStartsTheWorker := by
  intro s
  refine ⟨fun h => ?ignored, fun hf hl => ?starts⟩
  case ignored =>
    rcases h with hf | ha
    · exact exec_start_failed hf
    · exact exec_start_active ha
  case starts =>
    exact ⟨_, rfl, exec_start_quiet hf (quiet_iff.2 hl),
      fun hp => step_of_run (nextTurn_unscheduled_worker hp (active_of_running rfl))⟩

/-- `STOP` in `Stopping` waits (R252). -/
theorem exec_stop_stopping (h : s.lifecycle = .stopping) : exec .stop s = .next { s with blocked := true } := by
  simp only [exec, execStop, h]

/-- `STOP` without a worker returns at once (R252). -/
theorem exec_stop_quiet (h : s.lifecycle = .idle ∨ s.lifecycle = .stopped) :
    exec .stop s = .next (s.answer .none) := by
  rcases h with h | h <;> simp only [exec, execStop, h]

/-- The exit of the worker answers a controller that waits in `STOP` (R252, R257). -/
theorem workerExit_answers (hb : s.blocked = true) : workerExit s =
    { s with lifecycle := .stopped, blocked := false, response := { cond := none, value := .none } } := by
  simp only [workerExit, hb, if_true]

/-- Settles O43: `STOP` by the lifecycle; the waiting controller leaves its turn to the worker, whose exit answers it. -/
theorem stopRequestsAndWaits : Obligations.StopRequestsAndWaits := by
  refine fun s => ⟨exec_stop_running, exec_stop_stopping, exec_stop_quiet,
    fun c rest hb hp => step_of_run (nextTurn_blocked hp hb), fun hb hl hd hf => ?exit⟩
  exact (exec_workerstep_exit (active_of_stopping hl) hf (.inl hd)).trans (congrArg _ (workerExit_answers hb))

/-- Settles O45: the hooks are no operations, and the exit is the one at the boundary. -/
theorem hooksAndBoundaryExit : Obligations.HooksAndBoundaryExit := by
  refine fun s => ⟨rfl, rfl, rfl, fun ha hdec hexec hx => ?_, fun ha => ⟨.noWorker, ?_⟩⟩
  · exact exec_workerstep_exit ha (by simp [State.inFlight, hdec, hexec]) hx
  · simp [exec_workerstep, execWorkerstep, ha]

/-- Settles O51: the report by the halt cause, in `Stopped`. -/
theorem stopReportByHaltCause : Obligations.StopReportByHaltCause := by
  intro s c hl
  refine ⟨fun hc hf => ?fault, fun hc => ?debug, fun hc => ?instruction, fun hc => ?none⟩
  case fault => simp only [State.stopReport, hl, hc, hf, if_true]
  case debug | instruction | none => simp only [State.stopReport, hl, hc, if_true]

end Sys2Proof.Machine
end

section
/-! PROOF. The worker owns the block (spec/60_exceptions.md R299, R331, R332). -/

namespace Sys2Proof.Machine

variable {s : State}

theorem not_idle_of_active (ha : s.active = true) : s.lifecycle ≠ .idle := fun hl => by
  cases (not_active_of_idle hl).symm.trans ha

/-- `DLOAD` outside `Idle`, whatever its operand names (R332). -/
theorem exec_dload_not_idle (hl : s.lifecycle ≠ .idle) (dev : Nat) (bytes : List Byte) :
    ∃ r, exec (.dload dev bytes) s = .refused r := by
  cases hd : s.devices[dev]? with
  | some d => exact exec_dload_refused hd (.inr (.inl hl))
  | none =>
    have refuse : loadRom s dev bytes = .refuse .noSuchDevice := by simp only [loadRom, hd]
    exact ⟨_, congrArg (answerWrite s) refuse⟩

/-- A registration outside `Idle` (R332). -/
theorem exec_registration_not_idle (hl : s.lifecycle ≠ .idle) (sp : Space) (dev base size : Nat) :
    ∃ r, exec (registration sp dev base size) s = .refused r :=
  exec_registration_refused (.inl hl)

/-- Every command of the controller but the four allowed ones, while there is a worker: refused because the worker owns
the block, because `lifecycle` is not `Idle`, or because the block is built (R299, R331, R332). -/
theorem exec_refused_of_active {i : Instr} (hd : decodedOf i = none) (hw : workerOnly i = false)
    (ha : s.active = true) (hb : s.built = true) (hstart : i ≠ .start) (hstop : i ≠ .stop)
    (hasm : ∀ t, i ≠ .asm t) (hdisasm : ∀ l, i ≠ .disasm l) : ∃ r, exec i s = .refused r := by
  have busy : s.quiet = false := by rw [quiet_eq_not_active, ha]; rfl
  have hl : s.lifecycle ≠ .idle := not_idle_of_active ha
  cases i with
  | fetch8 | fetch16 | fetch32 | fetch64 | in8 | in16 | in32 | in64 => exact ⟨_, whenQuiet_busy busy⟩
  | store8 | store16 | store32 | store64 | out8 | out16 | out32 | out64 => exact ⟨_, whenQuiet_busy busy⟩
  | dfetch8 | dfetch16 | dfetch32 | dfetch64 | din8 | din16 | din32 | din64 => exact ⟨_, whenQuiet_busy busy⟩
  | dstore8 | dstore16 | dstore32 | dstore64 | dout8 | dout16 | dout32 | dout64 => exact ⟨_, whenQuiet_busy busy⟩
  | rdreg | wrreg | getregs | printregs => exact ⟨_, whenQuiet_busy busy⟩
  | setup | reset | setupdebug | stopdebug => exact ⟨_, whenQuiet_busy busy⟩
  | regm dev base size => exact exec_registration_not_idle hl .mem dev base size
  | regio dev base size => exact exec_registration_not_idle hl .io dev base size
  | dload dev bytes => exact exec_dload_not_idle hl dev bytes
  | build => exact exec_build_refused (.inl hb)
  | start => exact absurd rfl hstart
  | stop => exact absurd rfl hstop
  | asm text => exact absurd rfl (hasm text)
  | disasm bytes => exact absurd rfl (hdisasm bytes)
  | fetchi | decodei | execi | initthread | exitthread | flushthread | workerstep => cases hw
  | ldiA | hlt => cases hd

/-- Settles O9: the port carries the block's own operations, each of which is refused for its own reason; registration
and `DLOAD` ask for `Idle` by themselves. -/
theorem workerOwnsTheBlock : Obligations.WorkerOwnsTheBlock := by
  refine ⟨fun s c i hc => exec_refused_of_active (decodedOf_of_decodeCommand hc), fun s dev base size bytes hl => ?_⟩
  exact ⟨exec_registration_not_idle hl .mem dev base size, exec_registration_not_idle hl .io dev base size,
    exec_dload_not_idle hl dev bytes⟩

end Sys2Proof.Machine
end

section
/-! PROOF. A condition outside the worker loop (spec/60_exceptions.md R295). -/

namespace Sys2Proof.Machine

variable {s t : State} {c : Condition}

/-- An instruction that goes on to a condition only reports it: the condition is the response, and nothing else
changes (R295). -/
def ReportsConditions (i : Instr) : Prop :=
  ∀ {s t : State} {c : Condition}, exec i s = .next t → t.response.cond = some c → t = s.report c

/-- A state that a report leaves has the report's condition in its response, so that condition determines the state. -/
theorem report_of_cond {c' : Condition} (hc : (s.report c').response.cond = some c) : s.report c' = s.report c :=
  congrArg s.report (Option.some.inj hc)

/-- A read command that answers with a condition is the report of it (R295). -/
theorem readCommand_reports {w : Width} {x : Access Word} (h : whenQuiet s (answerRead s w x) = .next t)
    (hc : t.response.cond = some c) : t = s.report c := by
  rcases answerRead_next (whenQuiet_next h).2 with ⟨v, _, rfl⟩ | ⟨c', _, rfl⟩
  · cases hc
  · exact report_of_cond hc

/-- A writing command that answers with a condition is the report of it: one that took effect has none (R66, R295). -/
theorem answerWrite_reports {x : Access State} (h : answerWrite s x = .next t) (hc : t.response.cond = some c) :
    t = s.report c := by
  rcases answerWrite_next h with ⟨s', _, rfl⟩ | ⟨c', _, rfl⟩
  · cases hc
  · exact report_of_cond hc

theorem reportsConditions_routerRead (sp : Space) (w : Width) (a : Nat) : ReportsConditions (.routerRead sp w a) :=
  fun h => readCommand_reports ((exec_routerRead sp w a _).symm.trans h)

theorem reportsConditions_routerWrite (sp : Space) (w : Width) (a : Nat) (v : Word) :
    ReportsConditions (.routerWrite sp w a v) :=
  fun h => answerWrite_reports (whenQuiet_next ((exec_routerWrite sp w a v _).symm.trans h)).2

theorem reportsConditions_deviceRead (sp : Space) (w : Width) (dev off : Nat) :
    ReportsConditions (.deviceRead sp w dev off) :=
  fun h => readCommand_reports ((exec_deviceRead sp w dev off _).symm.trans h)

theorem reportsConditions_deviceWrite (sp : Space) (w : Width) (dev off : Nat) (v : Word) :
    ReportsConditions (.deviceWrite sp w dev off v) :=
  fun h => answerWrite_reports (whenQuiet_next ((exec_deviceWrite sp w dev off v _).symm.trans h)).2

theorem reportsConditions_registration (sp : Space) (dev base size : Nat) :
    ReportsConditions (registration sp dev base size) :=
  fun h => answerWrite_reports ((exec_registration sp dev base size _).symm.trans h)

theorem reportsConditions_dload (dev : Nat) (bytes : List Byte) : ReportsConditions (.dload dev bytes) :=
  fun h => answerWrite_reports h

theorem reportsConditions_asm (text : Text) : ReportsConditions (.asm text) := by
  intro s t c (h : execAsm text s = .next t) hc
  unfold execAsm at h
  split at h <;> cases h
  · cases hc
  · exact report_of_cond hc
  · exact report_of_cond hc

theorem reportsConditions_disasm (bytes : List Byte) : ReportsConditions (.disasm bytes) := by
  intro s t c (h : execDisasm bytes s = .next t) hc
  unfold execDisasm at h
  split at h <;> cases h
  · cases hc
  · exact report_of_cond hc

/-- Settles O23: each of these operations only reports its conditions. -/
theorem conditionsChangeTheResponseOnly : Obligations.ConditionsChangeTheResponseOnly := by
  intro s t i c hi h hc
  have reports : ReportsConditions i := by
    rcases hi with ⟨sp, w, a, rfl⟩ | ⟨sp, w, a, v, rfl⟩ | ⟨sp, w, dev, off, rfl⟩ | ⟨sp, w, dev, off, v, rfl⟩ |
      ⟨sp, dev, base, size, rfl⟩ | ⟨dev, bytes, rfl⟩ | ⟨text, rfl⟩ | ⟨bytes, rfl⟩
    · exact reportsConditions_routerRead sp w a
    · exact reportsConditions_routerWrite sp w a v
    · exact reportsConditions_deviceRead sp w dev off
    · exact reportsConditions_deviceWrite sp w dev off v
    · exact reportsConditions_registration sp dev base size
    · exact reportsConditions_dload dev bytes
    · exact reportsConditions_asm text
    · exact reportsConditions_disasm bytes
  exact reports h hc

end Sys2Proof.Machine
end

section
/-! PROOF. `RESET` (spec/43_processor.md R211, spec/70_reset_and_hazards.md R322). -/

namespace Sys2Proof.Machine

theorem exec_reset (s : State) : exec .reset s = whenQuiet s (.next ((resetProcessor s).answer .none)) := rfl

/-- Settles O29: in a quiet phase `RESET` is its body, answered, which names the fields it resets; the worker's phases
refuse it. -/
theorem resetRestoresTheProcessor : Obligations.ResetRestoresTheProcessor := by
  intro s
  rw [exec_reset]
  exact ⟨fun hq => whenQuiet_quiet hq, fun hq => ⟨.workerOwnsBlock, whenQuiet_busy hq⟩⟩

end Sys2Proof.Machine
end

section
/-! PROOF. A callback, an `Exec` or a tick that breaks its rules (spec/70_reset_and_hazards.md R334, R335). -/

namespace Sys2Proof.Machine

variable {s s' : State} {d : Decoded} {o : ExecOutcome} {tree : ExecTree} {cb : Nat} {answer : CallbackAnswer}
  {rest : List CallbackAnswer}

/-- How the run ends on an answer that breaks the callback's rules: the `START` it issues is refused, its `STOP` waits for
the worker that waits for it, and a callback that does not return leaves no step either (R334). An answer within the
rules has no such end. -/
def CallbackAnswer.violation : CallbackAnswer → Option Run
  | .continues => none
  | .stops => none
  | .issuesStart => some (.refused .callbackStart)
  | .issuesStop => some (.stuck .callbackDeadlock)
  | .neverReturns => some (.stuck .callbackNeverReturns)

/-- The callback step ends the run as the answer's violation has it (R334). -/
theorem callbackStep_violation {r : Run} (hd : s.dbg = some cb) (ha : s.dbgAnswers = answer :: rest)
    (hv : answer.violation = some r) : callbackStep s = r := by
  simp only [callbackStep, hd, consultCallback_given ha]
  cases answer with
  | continues | stops => cases hv
  | issuesStart | issuesStop | neverReturns => exact Option.some.inj hv

/-- An instruction whose callback step does not end has no other end (R214). -/
theorem finishInstruction_of_callbackStep_not_done (h : ∀ x, callbackStep (afterExec o s) ≠ .done x) :
    finishInstruction o s = callbackStep (afterExec o s) := by
  cases hc : callbackStep (afterExec o s) with
  | done x => exact absurd hc (h x)
  | raised | refused | stuck => cases o <;> simp only [afterExec] at hc <;> simp only [finishInstruction, hc]

theorem CallbackAnswer.violation_ne_done {r : Run} (hv : answer.violation = some r) (x : State) : r ≠ .done x := by
  rintro rfl
  cases answer <;> cases hv

/-- An `EXECI` whose callback breaks its rules ends as the violation has it, whatever the instruction does (R334). -/
theorem execRun_violation {r : Run} (hp : s.pstate = .executing) (hdec : s.decoded = some d)
    (hr : runTree (targetExec d) s = .ends s' o) (hd : s.dbg = some cb) (ha : s.dbgAnswers = answer :: rest)
    (hv : answer.violation = some r) : execRun s = r := by
  have kept := runTree_keeps_sequencer (targetExec d) s
  rw [hr] at kept
  obtain ⟨hpstate, hdbg, hanswers, _⟩ := kept
  obtain ⟨seesDbg, seesAnswers, _⟩ := afterExec_sees o (hpstate.trans hp)
  have callback : callbackStep (afterExec o s') = r :=
    callbackStep_violation (seesDbg.trans (hdbg.trans hd)) (seesAnswers.trans (hanswers.trans ha)) hv
  have forwarded : finishInstruction o s' = callbackStep (afterExec o s') :=
    finishInstruction_of_callbackStep_not_done fun x => callback ▸ CallbackAnswer.violation_ne_done hv x
  calc execRun s
    _ = executeTree (targetExec d) s := execRun_executing hp hdec
    _ = finishInstruction o s' := executeTree_ends hp hr
    _ = callbackStep (afterExec o s') := forwarded
    _ = r := callback

/-- An `Exec` that does not terminate leaves `EXECI` without an end (R335). -/
theorem executeTree_neverEnds (hp : s.pstate = .executing) (hr : runTree tree s = .neverEnds) :
    executeTree tree s = .stuck .execNeverReturns := by
  simp only [executeTree, hp, hr]

/-- Settles O34: a violation of the callback is the end of its `EXECI`; an `Exec` that never ends is `EXECI` without an
end; and a tick that does not return is met after the `EXECI` of the instruction in flight. -/
theorem forbiddenCallbackEndsTheRun : Obligations.ForbiddenCallbackEndsTheRun := by
  refine ⟨fun s d s' o cb rest hp hdec hr hd => ?callback, fun tree s hp hr => ?neverEnds,
    fun s s' ha hf hc hexec hfault htick => ?tick⟩
  case callback =>
    rw [exec_execi]
    exact ⟨fun h => congrArg workerOutcome (execRun_violation hp hdec hr hd h rfl),
      fun h => congrArg workerOutcome (execRun_violation hp hdec hr hd h rfl),
      fun h => congrArg workerOutcome (execRun_violation hp hdec hr hd h rfl)⟩
  case neverEnds => exact congrArg workerOutcome (executeTree_neverEnds hp hr)
  case tick =>
    have noFault : s.haltCause ≠ .fault := by simp [hc]
    obtain ⟨_, _, stuck⟩ := completeIteration_of_exec_execi noFault ha hexec
    exact (exec_workerstep_inFlight ha hf).trans (stuck hfault htick)

end Sys2Proof.Machine
end
